-- ==== Sys2Proof/Word.lean ====
section
/-! DEFINITION. The word types: every register of both windows is 32 bits wide (00_scope.md R7), a byte lane is 8. -/

namespace Sys2Proof

/-- One 32-bit register or command word; bit 0 is the least significant (R9). -/
abbrev Word := BitVec 32

/-- One byte lane of a register (20_memory.md R64). -/
abbrev Byte := BitVec 8

/-- `ceil_div(a, b) = (a + b - 1) / b`, used only with `b > 0` (R9). -/
def ceilDiv (a b : Nat) : Nat := (a + b - 1) / b

end Sys2Proof
end

