-- ==== Sys2Proof/Config.lean ====
section
/-! DEFINITION. What an implementation fixes (00_scope.md R7), the vocabulary of the agents around the two blocks (R8, R10,
R11, 30_encoding.md R94, R95), and the free values: constants with no body, which no proof can evaluate. -/

namespace Sys2Proof

/-! ## The two blocks and their registers -/

/-- The two blocks, each with its own clock and register window (R1, R6). -/
inductive Block
  | mdioc
  | clkseq
  deriving DecidableEq, Repr, Inhabited

/-- The seven derived clocks, in the order of 10_state.md R29 (k = 0 .. 6). -/
inductive DClk
  | ref | sys | usb | adc | rtc | peri | gpout
  deriving DecidableEq, Repr

/-- One 32-bit value for each derived clock (CLK_TARGETk, CLK_FREQk). -/
structure PerClk where
  ref   : Word
  sys   : Word
  usb   : Word
  adc   : Word
  rtc   : Word
  peri  : Word
  gpout : Word
  deriving DecidableEq, Repr

/-- The fields of CLK_PLL_SYS_DIV and CLK_PLL_USB_DIV (10_state.md R36). -/
structure PllDiv where
  refdiv : BitVec 8
  pd1    : BitVec 4
  pd2    : BitVec 4
  deriving DecidableEq, Repr

/-- The ClockPlan: registers CLK_XOSC_FREQ .. CLK_TARGET6 (10_state.md R30, R34 to R37). -/
structure Plan where
  fxosc  : Word
  sysVco : Word
  sysDiv : PllDiv
  usbVco : Word
  usbDiv : PllDiv
  target : PerClk
  deriving DecidableEq, Repr

/-- The registers of the MDIOC window (10_state.md R24). -/
inductive MdioReg
  | cmd | status | rdata | div
  deriving DecidableEq, Repr

/-- The plan registers of the CLKSEQ window: those the freeze rule names (10_state.md R40). -/
inductive PlanReg
  | xoscFreq | sysVco | sysDiv | usbVco | usbDiv
  | target (k : DClk)
  deriving DecidableEq, Repr

/-- The registers of the CLKSEQ window (10_state.md R31). -/
inductive ClkReg
  | ctrl | status
  | plan (r : PlanReg)
  | wdtDiv | freqXosc | freqPllSys | freqPllUsb
  | freq (k : DClk)
  deriving DecidableEq, Repr

/-! ## The agents around the blocks -/

/-- ANALOG's answer to the waiting stage in one tick (R11). -/
inductive Answer
  | none | ok | fail
  deriving DecidableEq, Repr, Inhabited

/-- What a host access names: a register of a block's window by its byte offset, or an address of the host's address space.
The two "mean the same" where the address is BASE + offset (R10). -/
inductive Target
  | reg (blk : Block) (off : Nat)
  | mem (addr : Nat)
  deriving DecidableEq, Repr

/-- The host-program forms of 30_encoding.md R94. `width` is the access width in bits: R60 admits 32 only. -/
inductive HostOp
  /-- `WR <blk>.<REG>, <imm32>` -/
  | wr (t : Target) (width : Nat) (v : Word)
  /-- `RD <dst>, <blk>.<REG>`; `dst` numbers a host variable. -/
  | rd (dst : Nat) (t : Target) (width : Nat)
  /-- `WAIT <blk>.<REG>.<FIELD> == <v>`; the field is bits `hi` down to `lo` of the register. -/
  | wait (t : Target) (hi lo : Nat) (v : Nat)
  deriving DecidableEq, Repr

/-- The pseudo-instructions of 30_encoding.md R95. The operands are plain numbers, because a host program may hold a wider
one, and checking its range is the host program's duty (R93). -/
inductive HostCall
  | mdioRd (dst phy reg : Nat)
  | mdioWr (phy reg value : Nat)
  | clkInit (dst : Nat)
  deriving DecidableEq, Repr

/-! ## Parameters -/

/-- The implementation parameters of R7. `MIN_DIV` and `DIV_RESET` are no fields: R7 makes both equal to
`TICKS_PER_UNIT`. A window's base is 256 times its page number (R67: 256-byte aligned). The record is an argument of the
blocks' functions and never part of the state. -/
structure Params where
  /-- `TICKS_PER_UNIT`, 1 .. 65535. -/
  ticksPerUnit : Nat
  /-- `PIN_FALLIBLE` -/
  pinFallible : Bool
  /-- `MDIOC_BASE` / 256 -/
  mdiocPage : Nat
  /-- `CLKSEQ_BASE` / 256 -/
  clkseqPage : Nat
  /-- `FXOSC_RESET`, `PLL_SYS_RESET`, `PLL_USB_RESET`, `TARGET_RESET[k]` -/
  resetPlan : Plan
  /-- `PLL_EXTRA_LEGAL` -/
  pllExtraLegal : (fref refdiv fbdiv vco pd1 pd2 : Nat) → Bool
  /-- `MICROS_WIDTH` -/
  microsWidth : Nat

/-- `MIN_DIV` = `TICKS_PER_UNIT` (R7). -/
def Params.minDiv (P : Params) : BitVec 16 := BitVec.ofNat 16 P.ticksPerUnit

/-- `DIV_RESET` = `MIN_DIV` (R7). -/
def Params.divReset (P : Params) : BitVec 16 := P.minDiv

/-- `MDIOC_BASE`, 256-byte aligned (R67). -/
def Params.mdiocBase (P : Params) : Nat := 256 * P.mdiocPage

/-- `CLKSEQ_BASE`, 256-byte aligned (R67). -/
def Params.clkseqBase (P : Params) : Nat := 256 * P.clkseqPage

/-- What R7 and R67 require of the parameters: `TICKS_PER_UNIT` in 1 .. 65535, and two windows that do not overlap. -/
def Params.wf (P : Params) : Prop :=
  1 ≤ P.ticksPerUnit ∧ P.ticksPerUnit ≤ 65535 ∧ P.mdiocPage ≠ P.clkseqPage

/-- `WDT_TICK_HZ` (R7): the frequency the watchdog tick generator is programmed to, exactly 1 MHz. -/
def wdtTickHz : Nat := 1000000

namespace Config

/-- The reset plan of R7 and 10_state.md R34 to R37. -/
def resetPlan : Plan where
  fxosc  := 12000000#32
  sysVco := 1500000000#32
  sysDiv := { refdiv := 1, pd1 := 5, pd2 := 3 }
  usbVco := 480000000#32
  usbDiv := { refdiv := 1, pd1 := 5, pd2 := 2 }
  target := { ref := 12000000#32, sys := 100000000#32, usb := 48000000#32, adc := 48000000#32, rtc := 46875#32,
              peri := 100000000#32, gpout := 100000000#32 }

/-! The parameters R7 leaves OPEN, or leaves to a part: fixed for a machine, known to no proof (log 4). -/

/-- `TICKS_PER_UNIT` - 1: any value that keeps the unit within R7's 1 .. 65535. -/
opaque ticksLessOne : Fin 65535
/-- `PIN_FALLIBLE`: R7's default is `false`; the model fixes neither value. -/
opaque pinFallible : Bool
/-- `MDIOC_BASE` / 256. -/
opaque mdiocPage : Nat
/-- A candidate for `CLKSEQ_BASE` / 256. -/
opaque clkseqPageWish : Nat
/-- `PLL_EXTRA_LEGAL`: R7's default is always true; the model fixes no predicate. -/
opaque pllExtraLegal : (fref refdiv fbdiv vco pd1 pd2 : Nat) → Bool
/-- `MICROS_WIDTH`. -/
opaque microsWidth : Nat

/-- The machine's parameters. -/
def params : Params where
  ticksPerUnit  := ticksLessOne.val + 1
  pinFallible   := pinFallible
  mdiocPage     := mdiocPage
  clkseqPage    := if clkseqPageWish = mdiocPage then clkseqPageWish + 1 else clkseqPageWish
  resetPlan     := resetPlan
  pllExtraLegal := pllExtraLegal
  microsWidth   := microsWidth

/-! The free values: what the environment draws in the n-th tick where no script in State says otherwise (log 1, 2, 10). -/

/-- The PHY's line level in the n-th `clk_mdio` tick (R10, U1). -/
opaque lineDraw : Nat → Bool
/-- PINLAYER's report in the n-th `clk_mdio` tick (R182, U4). -/
opaque pinErrDraw : Nat → Bool
/-- ANALOG's answer in the n-th `clk_seq` tick (R11, U2). -/
opaque answerDraw : Nat → Answer
/-- Which block's clock ticks in the n-th step (R6, R8). -/
opaque clockDraw : Nat → Block
/-- The frequency of the watchdog tick generator before stage WDT has programmed it, in the n-th `clk_seq` tick: no rule gives
one. -/
opaque wdtFreeHz : Nat → ℚ
/-- How far from 1 MHz the watchdog tick generator ticks in the n-th `clk_seq` tick when `wdt_ok = 0`: any value (U9) but 0,
since it "does not tick at exactly 1 MHz" (42_clock_sequencer.md R143). -/
opaque wdtErrorHz : Nat → ℚˣ

end Config

end Sys2Proof
end

