-- ==== Sys2Proof/Syntax.lean ====
section
/-! DEFINITION. The instructions: one constructor per row of spec/opcode_table.json. -/

namespace Sys2Proof

/-- The three commands of the two blocks (30_encoding.md R80, R81, R90). Every bit of a command word that its encoding does
not fix is an operand, the ignored fields too (R89, R90), so that a word and its instruction determine each other. -/
inductive Instr
  /-- MDIO.READ: `ta` and `data` are ignored (R89, R111). -/
  | mdioRead (phy reg : BitVec 5) (ta : BitVec 2) (data : BitVec 16)
  /-- MDIO.WRITE: `ta` is ignored (R89, R110). -/
  | mdioWrite (phy reg : BitVec 5) (ta : BitVec 2) (data : BitVec 16)
  /-- CLKSEQ.START: bits 31:1 are ignored (R90, R140). -/
  | clkseqStart (ignored : BitVec 31)
  deriving DecidableEq, Repr

end Sys2Proof
end

