-- ==== Sys2Proof/WellFormed.lean ====
section
/-! DEFINITION. Which host accesses, host operations, pseudo-instructions and instructions are well formed. -/

namespace Sys2Proof

/-- The accesses R60 admits: 32 bits wide, at a multiple of 4 below 0x100. -/
def admitted (width off : Nat) : Bool := width == 32 && off % 4 == 0 && decide (off < 0x100)

/-- An access by offset is well formed when R60 admits it. An access by address is checked where its window is known
(Machine/Bus.lean); here its width and alignment. -/
def Target.wellFormed (width : Nat) : Target → Bool
  | .reg _ off => admitted width off
  | .mem addr => width == 32 && addr % 4 == 0

/-- A host operation is well formed when its access is and a WAIT names a field of a 32-bit register (R94). -/
def HostOp.wellFormed : HostOp → Bool
  | .wr t width _ => t.wellFormed width
  | .rd _ t width => t.wellFormed width
  | .wait t hi lo _ => t.wellFormed 32 && decide (lo ≤ hi) && decide (hi < 32)

/-- A pseudo-instruction is well formed when its operands fit the frame: 5-bit addresses and a 16-bit value (R86, R87). A
wider register address is a "caller-side range error" (R93). -/
def HostCall.wellFormed : HostCall → Bool
  | .mdioRd _ phy reg => decide (phy < 32) && decide (reg < 32)
  | .mdioWr phy reg value => decide (phy < 32) && decide (reg < 32) && decide (value < 65536)
  | .clkInit _ => true

/-- Every instruction is well formed: its operands' types are the widths of R86 and R90, so there is no ill-formed term. -/
def Instr.wellFormed : Instr → Bool
  | .mdioRead _ _ _ _ => true
  | .mdioWrite _ _ _ _ => true
  | .clkseqStart _ => true

end Sys2Proof
end

