-- ==== Sys2Proof/Decode.lean ====
section
/-! DEFINITION. The decoder (total, rejecting by name) and, after it, the encoder, both from 30_encoding.md. -/

namespace Sys2Proof

/-- The register a command word is written to; it decides the word's format, never the word's bits (R80). -/
inductive Port
  /-- MDIO_CMD: format CMD32. -/
  | mdioCmd
  /-- CLK_CTRL: format CTRL32. -/
  | clkCtrl
  deriving DecidableEq, Repr

/-- Why a word, or a list of byte lanes, is no instruction. -/
inductive Reject
  /-- CMD32 with ST other than `01` (R84, R88). -/
  | badStart
  /-- CMD32 with OP `00` or `11` (R83, R88). -/
  | reservedOp
  /-- CTRL32 with bit 0 = 0: no command (R90). -/
  | noCommand
  /-- Not the four byte lanes of one 32-bit write (R80, R91). -/
  | wrongLength
  deriving DecidableEq, Repr

/-- The outcome of decoding. -/
inductive Decoded
  | instr (i : Instr)
  | reject (r : Reject)
  deriving DecidableEq, Repr

/-! ## Fields of a command word (R81, R86, R90) -/

def Word.st (w : Word) : BitVec 2 := w.extractLsb' 30 2
def Word.opBits (w : Word) : BitVec 2 := w.extractLsb' 28 2
def Word.phyad (w : Word) : BitVec 5 := w.extractLsb' 23 5
def Word.regad (w : Word) : BitVec 5 := w.extractLsb' 18 5
def Word.ta (w : Word) : BitVec 2 := w.extractLsb' 16 2
def Word.data (w : Word) : BitVec 16 := w.extractLsb' 0 16
def Word.startBit (w : Word) : Bool := w.getLsbD 0
def Word.ctrlIgnored (w : Word) : BitVec 31 := w.extractLsb' 1 31

/-! ## Decoding -/

/-- A CMD32 word: MDIO.READ, MDIO.WRITE or REJECT (R88, R92). -/
def decodeCmd (w : Word) : Decoded :=
  if Word.st w ≠ 0b01#2 then .reject .badStart
  else if Word.opBits w = 0b10#2 then .instr (.mdioRead (Word.phyad w) (Word.regad w) (Word.ta w) (Word.data w))
  else if Word.opBits w = 0b01#2 then .instr (.mdioWrite (Word.phyad w) (Word.regad w) (Word.ta w) (Word.data w))
  else .reject .reservedOp

/-- A CTRL32 word: CLKSEQ.START or no command (R90, R92). -/
def decodeCtrl (w : Word) : Decoded :=
  if Word.startBit w then .instr (.clkseqStart (Word.ctrlIgnored w)) else .reject .noCommand

/-- The decoder: the port decides the format (R80), and every word has exactly one outcome (R92). -/
def decode : Port → Word → Decoded
  | .mdioCmd, w => decodeCmd w
  | .clkCtrl, w => decodeCtrl w

/-- A register from its byte lanes, lane i being bits [8i+7:8i] (R64). -/
def wordOfLanes (l0 l1 l2 l3 : Byte) : Word := l3 ++ l2 ++ l1 ++ l0

/-- The byte lanes of a register, lane 0 first (R64). -/
def lanesOfWord (w : Word) : List Byte :=
  [w.extractLsb' 0 8, w.extractLsb' 8 8, w.extractLsb' 16 8, w.extractLsb' 24 8]

/-- Decoding from byte lanes: one command length, four lanes (R80, R91). -/
def decodeBytes (p : Port) : List Byte → Decoded
  | [l0, l1, l2, l3] => decode p (wordOfLanes l0 l1 l2 l3)
  | _ => .reject .wrongLength

/-! ## The opcode table's words, which name no port (log 8) -/

/-- The port a table word is taken to be written to: MDIO_CMD where w[31:28] is one of the two CMD32 patterns, else CLK_CTRL
where w[0] is 1, else MDIO_CMD. -/
def tablePort (w : Word) : Port :=
  match decodeCmd w with
  | .instr _ => .mdioCmd
  | .reject _ => if Word.startBit w then .clkCtrl else .mdioCmd

/-- What the decoder reads from a table word of `nbits` bits. Every command is one 32-bit word (R80), so a longer one is
none. -/
def decodeTableWord (nbits w : Nat) : Option Instr :=
  if nbits ≤ 32 then
    match decode (tablePort (BitVec.ofNat 32 w)) (BitVec.ofNat 32 w) with
    | .instr i => some i
    | .reject _ => none
  else none

/-! ## Encoding -/

/-- The operation of a frame (10_state.md R22). -/
inductive Op
  | rd | wr
  deriving DecidableEq, Repr

/-- `opbits`: `10` = read, `01` = write (R83, R87). -/
def Op.bits : Op → BitVec 2
  | .rd => 0b10#2
  | .wr => 0b01#2

/-- `tabits`: `10` for a write, `00` for a read (R85, R87). -/
def Op.taBits : Op → BitVec 2
  | .rd => 0b00#2
  | .wr => 0b10#2

/-- Format CMD32: ST OP PHYAD REGAD TA DATA, ST most significant (R81). -/
def cmdWord (op : BitVec 2) (phy reg : BitVec 5) (ta : BitVec 2) (data : BitVec 16) : Word :=
  0b01#2 ++ op ++ phy ++ reg ++ ta ++ data

/-- The frame word `enc(op, phy, reg, data)` of R87. -/
def enc (op : Op) (phy reg : BitVec 5) (data : BitVec 16) : Word :=
  cmdWord op.bits phy reg op.taBits (match op with | .wr => data | .rd => 0#16)

/-- The port an instruction is written to (opcode_table.json, "target"). -/
def Instr.port : Instr → Port
  | .mdioRead _ _ _ _ => .mdioCmd
  | .mdioWrite _ _ _ _ => .mdioCmd
  | .clkseqStart _ => .clkCtrl

/-- The word of an instruction (R81, R90). -/
def encode : Instr → Word
  | .mdioRead phy reg ta data => cmdWord (Op.bits .rd) phy reg ta data
  | .mdioWrite phy reg ta data => cmdWord (Op.bits .wr) phy reg ta data
  | .clkseqStart ignored => ignored ++ 0b1#1

end Sys2Proof
end

