-- ==== Sys2Proof/Machine/State.lean ====
section
/-! DEFINITION. The state of both blocks and of the agents around them, as plain data; why a step can stop; reset. -/

namespace Sys2Proof.Machine

/-! ## MDIOC -/

/-- IDLE: no transaction; LOW, HIGH: the clock-low and clock-high half of a bit cell (10_state.md R22). -/
inductive MState
  | idle | low | high
  deriving DecidableEq, Repr

/-- The data line's role: push-pull-output or floating-input (10_state.md R23). -/
inductive Role
  | out | inp
  deriving DecidableEq, Repr

/-- The state of MDIOC (10_state.md R22, R23), under the spec's names. -/
structure Mdioc where
  mstate   : MState
  cell     : BitVec 6
  cnt      : BitVec 16
  op       : Op
  phy      : BitVec 5
  reg      : BitVec 5
  wdata    : BitVec 16
  half     : BitVec 16
  rx       : BitVec 16
  rdata    : BitVec 16
  div      : BitVec 16
  done     : Bool
  cmdErr   : Bool
  pinFault : Bool
  mdc      : Bool
  mdioRole : Role
  mdioO    : Bool
  deriving DecidableEq, Repr

/-- The reset state of MDIOC (10_state.md R45). -/
def Mdioc.reset (P : Params) : Mdioc where
  mstate := .idle
  cell := 0#6
  cnt := 0#16
  op := .rd
  phy := 0#5
  reg := 0#5
  wdata := 0#16
  half := 0#16
  rx := 0#16
  rdata := 0#16
  div := P.divReset
  done := false
  cmdErr := false
  pinFault := false
  mdc := false
  mdioRole := .inp
  mdioO := true

/-! ## CLKSEQ -/

/-- `stage` (10_state.md R30): 0 IDLE, 1 XOSC, 2 WDT, 3 PLL_SYS, 4 PLL_USB, 5+k CLK_k, 12 DONE, 13 FAILED. -/
inductive Stage
  | idle | xosc | wdt | pllSys | pllUsb
  | clk (k : DClk)
  | done | failed
  deriving DecidableEq, Repr

/-- ClockStageError (60_exceptions.md R181, R184). -/
inductive StageError
  | oscillatorStartFailed
  | systemPllFailed
  | usbPllFailed
  | derivedClockFailed (k : DClk)
  deriving DecidableEq, Repr

/-- The state of CLKSEQ (10_state.md R30): the sequencer, the plan, the realized frequencies. -/
structure Clkseq where
  stage      : Stage
  err        : Option StageError
  wdtOk      : Bool
  wdtDiv     : BitVec 16
  plan       : Plan
  freqXosc   : Word
  freqPllSys : Word
  freqPllUsb : Word
  freqClk    : PerClk
  deriving DecidableEq, Repr

/-- All seven values zero. -/
def perClkZero : PerClk :=
  { ref := 0#32, sys := 0#32, usb := 0#32, adc := 0#32, rtc := 0#32, peri := 0#32, gpout := 0#32 }

/-- The reset state of CLKSEQ (10_state.md R46). -/
def Clkseq.reset (P : Params) : Clkseq where
  stage := .idle
  err := none
  wdtOk := false
  wdtDiv := 0#16
  plan := P.resetPlan
  freqXosc := 0#32
  freqPllSys := 0#32
  freqPllUsb := 0#32
  freqClk := perClkZero

/-! ## What a host access does to a block in one tick -/

/-- The operands of an MDIO command that decodes (30_encoding.md R86). -/
structure Request where
  op   : Op
  phy  : BitVec 5
  reg  : BitVec 5
  data : BitVec 16
  deriving DecidableEq, Repr

/-- The host access to the MDIOC window in one tick, as 41_mdio_transactions.md R117 sorts it. A read and a write without
effect are `none`. -/
inductive MdioAct
  | none
  | div (v : Word)
  | status (v : Word)
  /-- A write to MDIO_CMD of a word that decodes. -/
  | request (r : Request)
  /-- A write to MDIO_CMD of a reserved encoding. -/
  | reserved
  deriving DecidableEq, Repr

/-- The host access to the CLKSEQ window in one tick, as 42_clock_sequencer.md R160 sorts it. -/
inductive SeqAct
  | none
  | plan (r : PlanReg) (v : Word)
  | start
  deriving DecidableEq, Repr

/-! ## The environment's inputs -/

/-- The inputs of one `clk_mdio` tick: `rst_mdio`, the PHY's line level, the pin layer's report (41_mdio_transactions.md
R117, 70_reset_and_hazards.md R210). -/
structure MdioDraw where
  rst    : Bool
  line   : Bool
  pinErr : Bool
  deriving DecidableEq, Repr

/-- The inputs of one `clk_seq` tick: `rst_seq` and ANALOG's answer (42_clock_sequencer.md R160, R210). -/
structure SeqDraw where
  rst    : Bool
  answer : Answer
  deriving DecidableEq, Repr

/-- A scripted `clk_mdio` tick; `none` leaves the draw a free value (log 2). -/
structure MdioIn where
  rst    : Bool
  line   : Option Bool
  pinErr : Option Bool
  deriving DecidableEq, Repr

/-- A scripted `clk_seq` tick; `none` leaves the draw a free value (log 2). -/
structure SeqIn where
  rst    : Bool
  answer : Option Answer
  deriving DecidableEq, Repr

/-- The inputs still to come and the counters of the free values: the model's own fields (log 1, 2, 3). -/
structure Env where
  /-- Which block's clock ticks in each of the next steps. -/
  clocks : List Block
  /-- The next `clk_mdio` ticks. -/
  mdioIn : List MdioIn
  /-- The next `clk_seq` ticks. -/
  seqIn : List SeqIn
  /-- How many `clk_mdio` ticks there have been. -/
  mdioTicks : Nat
  /-- How many `clk_seq` ticks there have been. -/
  seqTicks : Nat
  deriving DecidableEq, Repr

/-- The host agent (00_scope.md R8): the operations it has still to make, oldest first, and its variables, keys strictly
rising (30_encoding.md R94; log 7). -/
structure HostAgent where
  todo : List HostOp
  vars : List (Nat × Word)
  deriving DecidableEq, Repr

/-- The whole machine. -/
structure State where
  mdioc  : Mdioc
  clkseq : Clkseq
  host   : HostAgent
  env    : Env
  deriving DecidableEq, Repr

/-- Why the machine stops with a fault. Neither block raises one: they take no trap (60_exceptions.md R180). -/
inductive Fault
  /-- Raised by `route` (Machine/Bus.lean) for a host access to an address in neither window: "Everything else of the
  host's address space is the platform's" (20_memory.md R67). Safe: the model stops where a platform may go on. -/
  | platformAddress
  deriving DecidableEq, Repr

/-- Why a step has no meaning. -/
inductive Refusal
  /-- An instruction whose arm of `exec` has no meaning yet: none. Safe. -/
  | notModelled (mnemonic : String)
  /-- Raised by `route` (Machine/Bus.lean) for an access to a window of 8 or 16 bits, misaligned, or at an offset outside
  the window: "The model refuses every other access to a window" (20_memory.md R60, U5). Safe. -/
  | unadmittedAccess
  /-- Raised by `perform` (Machine/Bus.lean) for a WAIT that names bits outside a 32-bit register (30_encoding.md R94: a
  field; log 7). Safe. -/
  | noSuchField
  deriving DecidableEq, Repr

/-- The machine right after reset (R45, R46): no host operation, no scripted input, nothing counted (log 2, 7). -/
def State.reset : State where
  mdioc := Mdioc.reset Config.params
  clkseq := Clkseq.reset Config.params
  host := { todo := [], vars := [] }
  env := { clocks := [], mdioIn := [], seqIn := [], mdioTicks := 0, seqTicks := 0 }

end Sys2Proof.Machine
end

