-- ==== Sys2Proof/Machine/Operands.lean ====
section
/-! DEFINITION. Operand forms: the fields of a command (30_encoding.md R86), of a plan register (10_state.md R36), of a WAIT
(R94), and access to the seven derived-clock values by their clock (R29). -/

namespace Sys2Proof.Machine

/-! ## Command operands -/

/-- The operands of MDIO.READ: a read has no payload (R86, R101). -/
def readRequest (phy reg : BitVec 5) : Request := { op := .rd, phy := phy, reg := reg, data := 0#16 }

/-- The operands of MDIO.WRITE (R86). -/
def writeRequest (phy reg : BitVec 5) (data : BitVec 16) : Request := { op := .wr, phy := phy, reg := reg, data := data }

/-! ## PLL divider fields -/

/-- CLK_PLL_*_DIV as read: reserved bits 0, PD2, PD1, REFDIV (R36). -/
def pllDivWord (d : PllDiv) : Word := 0#16 ++ d.pd2 ++ d.pd1 ++ d.refdiv

/-- What a write of a word to CLK_PLL_*_DIV stores: any value; the reserved bits are ignored (R36). -/
def pllDivOfWord (w : Word) : PllDiv :=
  { refdiv := w.extractLsb' 0 8, pd1 := w.extractLsb' 8 4, pd2 := w.extractLsb' 12 4 }

/-! ## The seven derived clocks -/

/-- The index k of a derived clock (R29). -/
def clkIndex : DClk → Nat
  | .ref => 0
  | .sys => 1
  | .usb => 2
  | .adc => 3
  | .rtc => 4
  | .peri => 5
  | .gpout => 6

/-- The value a record of seven holds for clock `k`. -/
def perClkGet (v : PerClk) : DClk → Word
  | .ref => v.ref
  | .sys => v.sys
  | .usb => v.usb
  | .adc => v.adc
  | .rtc => v.rtc
  | .peri => v.peri
  | .gpout => v.gpout

/-- The record with clock `k`'s value replaced. -/
def perClkSet (v : PerClk) (k : DClk) (w : Word) : PerClk :=
  match k with
  | .ref => { v with ref := w }
  | .sys => { v with sys := w }
  | .usb => { v with usb := w }
  | .adc => { v with adc := w }
  | .rtc => { v with rtc := w }
  | .peri => { v with peri := w }
  | .gpout => { v with gpout := w }

/-! ## WAIT fields -/

/-- Bits `hi` down to `lo` of a register value (00_scope.md R9). -/
def fieldOf (w : Word) (hi lo : Nat) : Nat := (w.toNat >>> lo) % 2 ^ (hi + 1 - lo)

/-! ## Host operations -/

/-- The access a host operation makes: a WAIT repeats a 32-bit RD (R94). -/
def opTarget : HostOp → Target
  | .wr t _ _ => t
  | .rd _ t _ => t
  | .wait t _ _ _ => t

/-- The width in bits of that access. -/
def opWidth : HostOp → Nat
  | .wr _ width _ => width
  | .rd _ _ width => width
  | .wait _ _ _ _ => 32

end Sys2Proof.Machine
end

