-- ==== Sys2Proof/Machine/Flags.lean ====
section
/-! DEFINITION. The flags: the two status registers as views of state (10_state.md R26, R33, R41), the numbers of a stage
and of an error, and the write-1-to-clear of MDIO_STATUS. -/

namespace Sys2Proof.Machine

/-! ## MDIO_STATUS -/

/-- `BUSY` is defined as `mstate != IDLE` (R22). -/
def Mdioc.busy (m : Mdioc) : Bool := m.mstate != .idle

/-- MDIO_STATUS.CELL: `cell` while BUSY, 0 when IDLE (R26). -/
def Mdioc.cellView (m : Mdioc) : BitVec 6 := if m.busy then m.cell else 0#6

/-- MDIO_STATUS.ROLE: 1 when the line is released (R26). -/
def Mdioc.roleBit (m : Mdioc) : Bool := m.mdioRole == .inp

/-- MDIO_STATUS (R26): bits 31:14 and 7 read 0. -/
def Mdioc.status (m : Mdioc) : Word :=
  0#18 ++ m.cellView ++ 0#1 ++ BitVec.ofBool m.mdioO ++ BitVec.ofBool m.mdc ++ BitVec.ofBool m.roleBit
    ++ BitVec.ofBool m.pinFault ++ BitVec.ofBool m.cmdErr ++ BitVec.ofBool m.done ++ BitVec.ofBool m.busy

/-- A host write of `v` to MDIO_STATUS: 1 in bit 1 clears DONE, 1 in bit 2 clears CMD_ERR, every other bit is ignored (R26,
41_mdio_transactions.md R117 step 2). -/
def Mdioc.clearFlags (m : Mdioc) (v : Word) : Mdioc :=
  { m with done := m.done && !v.getLsbD 1, cmdErr := m.cmdErr && !v.getLsbD 2 }

/-! ## CLK_STATUS -/

/-- The number of a stage (R30). -/
def Stage.number : Stage → Nat
  | .idle => 0
  | .xosc => 1
  | .wdt => 2
  | .pllSys => 3
  | .pllUsb => 4
  | .clk k => 5 + clkIndex k
  | .done => 12
  | .failed => 13

/-- The code of a ClockStageError (60_exceptions.md R181). -/
def StageError.code : StageError → Nat
  | .oscillatorStartFailed => 1
  | .systemPllFailed => 2
  | .usbPllFailed => 3
  | .derivedClockFailed k => 4 + clkIndex k

/-- CLK_STATUS.ERR: the code of the failed stage, 0 when none (R30). -/
def errCode : Option StageError → Nat
  | none => 0
  | some e => e.code

/-- CLK_STATUS.BUSY: `stage` in 1..11 (R33). -/
def Clkseq.busy (c : Clkseq) : Bool := decide (1 ≤ c.stage.number) && decide (c.stage.number ≤ 11)

/-- CLK_STATUS (R33): bits 31:12 read 0. -/
def Clkseq.status (c : Clkseq) : Word :=
  0#20 ++ BitVec.ofNat 4 (errCode c.err) ++ BitVec.ofBool c.wdtOk ++ BitVec.ofBool (c.stage == .failed)
    ++ BitVec.ofBool (c.stage == .done) ++ BitVec.ofBool c.busy ++ BitVec.ofNat 4 c.stage.number

end Sys2Proof.Machine
end

