-- ==== Sys2Proof/Machine/Ops.lean ====
section
/-! DEFINITION. The shared operations: the register maps and host reads, what a host write stores, the environment's draws,
and the one operation that records each kind of event (60_exceptions.md R181): the blocks have no other exception entry. -/

namespace Sys2Proof.Machine

/-! ## Register maps -/

/-- The MDIOC register at a byte offset (10_state.md R24); `none` is an unmapped offset (20_memory.md R61). -/
def mdioRegAt (off : Nat) : Option MdioReg :=
  if off = 0x00 then some .cmd
  else if off = 0x04 then some .status
  else if off = 0x08 then some .rdata
  else if off = 0x0C then some .div
  else none

/-- The derived clock with index k (10_state.md R29). -/
def clkAt (k : Nat) : Option DClk :=
  if k = 0 then some .ref
  else if k = 1 then some .sys
  else if k = 2 then some .usb
  else if k = 3 then some .adc
  else if k = 4 then some .rtc
  else if k = 5 then some .peri
  else if k = 6 then some .gpout
  else none

/-- The CLKSEQ register at a byte offset (10_state.md R31); `none` is an unmapped offset (20_memory.md R61). -/
def clkRegAt (off : Nat) : Option ClkReg :=
  if off = 0x00 then some .ctrl
  else if off = 0x04 then some .status
  else if off = 0x08 then some (.plan .xoscFreq)
  else if off = 0x0C then some (.plan .sysVco)
  else if off = 0x10 then some (.plan .sysDiv)
  else if off = 0x14 then some (.plan .usbVco)
  else if off = 0x18 then some (.plan .usbDiv)
  else if off = 0x38 then some .wdtDiv
  else if off = 0x3C then some .freqXosc
  else if off = 0x40 then some .freqPllSys
  else if off = 0x44 then some .freqPllUsb
  else if off % 4 ≠ 0 then none
  else if 0x1C ≤ off ∧ off < 0x38 then (clkAt ((off - 0x1C) / 4)).map fun k => .plan (.target k)
  else if 0x48 ≤ off then (clkAt ((off - 0x48) / 4)).map .freq
  else none

/-- The byte offset of an MDIOC register (10_state.md R24). -/
def mdioRegOff : MdioReg → Nat
  | .cmd => 0x00
  | .status => 0x04
  | .rdata => 0x08
  | .div => 0x0C

/-- The byte offset of a CLKSEQ register (10_state.md R31). -/
def clkRegOff : ClkReg → Nat
  | .ctrl => 0x00
  | .status => 0x04
  | .plan .xoscFreq => 0x08
  | .plan .sysVco => 0x0C
  | .plan .sysDiv => 0x10
  | .plan .usbVco => 0x14
  | .plan .usbDiv => 0x18
  | .plan (.target k) => 0x1C + 4 * clkIndex k
  | .wdtDiv => 0x38
  | .freqXosc => 0x3C
  | .freqPllSys => 0x40
  | .freqPllUsb => 0x44
  | .freq k => 0x48 + 4 * clkIndex k

/-! ## Host reads: the value computed from the state before the tick (00_scope.md R6) -/

/-- A host read of an MDIOC register (10_state.md R25 to R28). -/
def Mdioc.hostRead (m : Mdioc) : MdioReg → Word
  | .cmd => 0#32
  | .status => m.status
  | .rdata => m.rdata.setWidth 32
  | .div => m.div.setWidth 32

/-- A plan register's value (10_state.md R34 to R37). -/
def Plan.read (p : Plan) : PlanReg → Word
  | .xoscFreq => p.fxosc
  | .sysVco => p.sysVco
  | .sysDiv => pllDivWord p.sysDiv
  | .usbVco => p.usbVco
  | .usbDiv => pllDivWord p.usbDiv
  | .target k => perClkGet p.target k

/-- A host read of a CLKSEQ register (10_state.md R32 to R39). -/
def Clkseq.hostRead (c : Clkseq) : ClkReg → Word
  | .ctrl => 0#32
  | .status => c.status
  | .plan r => Plan.read c.plan r
  | .wdtDiv => c.wdtDiv.setWidth 32
  | .freqXosc => c.freqXosc
  | .freqPllSys => c.freqPllSys
  | .freqPllUsb => c.freqPllUsb
  | .freq k => perClkGet c.freqClk k

/-- `RegRead(block, off)` (R10): an unmapped offset reads 0 (20_memory.md R61). -/
def regRead (s : State) (blk : Block) (off : Nat) : Word :=
  match blk with
  | .mdioc => match mdioRegAt off with
    | some r => s.mdioc.hostRead r
    | none => 0#32
  | .clkseq => match clkRegAt off with
    | some r => s.clkseq.hostRead r
    | none => 0#32

/-! ## What a host write stores -/

/-- A write to MDIO_DIV: write-any-read-legal, never below `MIN_DIV` (10_state.md R28). -/
def Mdioc.writeDiv (P : Params) (m : Mdioc) (v : Word) : Mdioc :=
  { m with div := if (v.extractLsb' 0 16).toNat < P.minDiv.toNat then P.minDiv else v.extractLsb' 0 16 }

/-- The plan with one register written (10_state.md R34 to R37). -/
def Plan.write (p : Plan) (r : PlanReg) (v : Word) : Plan :=
  match r with
  | .xoscFreq => { p with fxosc := v }
  | .sysVco => { p with sysVco := v }
  | .sysDiv => { p with sysDiv := pllDivOfWord v }
  | .usbVco => { p with usbVco := v }
  | .usbDiv => { p with usbDiv := pllDivOfWord v }
  | .target k => { p with target := perClkSet p.target k v }

/-! ## Recording an event -/

/-- CommandRejected (41_mdio_transactions.md R115, 60_exceptions.md R183): CMD_ERR is set and nothing else changes. -/
def Mdioc.reject (m : Mdioc) : Mdioc := { m with cmdErr := true }

/-- PinFault (60_exceptions.md R182): the transaction is cut short and the data line released; `mdc`, `mdioO`, `rdata` and
`done` keep their values. -/
def Mdioc.pinAbort (m : Mdioc) : Mdioc :=
  { m with pinFault := true, mstate := .idle, cell := 0#6, cnt := 0#16, mdioRole := .inp }

/-- `fail(code)` (42_clock_sequencer.md R156): the code is recorded and the stage is FAILED, until reset. -/
def Clkseq.fail (c : Clkseq) (e : StageError) : Clkseq := { c with err := some e, stage := .failed }

/-! ## The environment's inputs of a tick -/

/-- The scripted `clk_mdio` tick at the head of the script; past its end, reset is not asserted and the draws are free
(log 2, 3). -/
def Env.nextMdio (e : Env) : MdioIn :=
  match e.mdioIn with
  | [] => { rst := false, line := none, pinErr := none }
  | i :: _ => i

/-- The scripted `clk_seq` tick at the head of the script; past its end, reset is not asserted and the answer is free
(log 2, 3). -/
def Env.nextSeq (e : Env) : SeqIn :=
  match e.seqIn with
  | [] => { rst := false, answer := none }
  | i :: _ => i

/-- The inputs of the next `clk_mdio` tick: draws under no law (00_scope.md R10, R182). -/
def Env.mdioDraw (e : Env) : MdioDraw :=
  { rst := e.nextMdio.rst
    line := e.nextMdio.line.getD (Config.lineDraw e.mdioTicks)
    pinErr := e.nextMdio.pinErr.getD (Config.pinErrDraw e.mdioTicks) }

/-- The inputs of the next `clk_seq` tick (00_scope.md R11). -/
def Env.seqDraw (e : Env) : SeqDraw :=
  { rst := e.nextSeq.rst, answer := e.nextSeq.answer.getD (Config.answerDraw e.seqTicks) }

/-- Which block's clock ticks next: scripted, or a free value (log 1). -/
def Env.nextClock (e : Env) : Block :=
  match e.clocks with
  | [] => Config.clockDraw (e.mdioTicks + e.seqTicks)
  | b :: _ => b

/-- A `clk_mdio` tick has taken its inputs. -/
def Env.popMdio (e : Env) : Env := { e with mdioIn := e.mdioIn.tail, mdioTicks := e.mdioTicks + 1 }

/-- A `clk_seq` tick has taken its inputs. -/
def Env.popSeq (e : Env) : Env := { e with seqIn := e.seqIn.tail, seqTicks := e.seqTicks + 1 }

/-- The step's choice of clock has been taken. -/
def Env.popClock (e : Env) : Env := { e with clocks := e.clocks.tail }

/-! ## Host variables -/

/-- Store a value under a key in a list of strictly rising keys. -/
def setVar (k : Nat) (v : Word) : List (Nat × Word) → List (Nat × Word)
  | [] => [(k, v)]
  | (j, w) :: rest =>
    if k < j then (k, v) :: (j, w) :: rest
    else if k = j then (k, v) :: rest
    else (j, w) :: setVar k v rest

/-- The value of a host variable; `none` where no RD has stored one. -/
def getVar (k : Nat) : List (Nat × Word) → Option Word
  | [] => none
  | (j, w) :: rest => if k = j then some w else getVar k rest

end Sys2Proof.Machine
end

