-- ==== Sys2Proof/Machine/Clk.lean ====
section
/-! DEFINITION. CLKSEQ: the frequency arithmetic, the stages, one tick, and the meaning of CLKSEQ.START
(42_clock_sequencer.md). Products and quotients are exact on naturals (00_scope.md R9). -/

namespace Sys2Proof.Machine

/-! ## PLL arithmetic (R144) -/

/-- `FBDIV = (VCO * REFDIV) / FREF`. -/
def pllFbdiv (fref vco : Word) (d : PllDiv) : Nat := vco.toNat * d.refdiv.toNat / fref.toNat

/-- `legal`. -/
def pllLegal (P : Params) (fref vco : Word) (d : PllDiv) : Bool :=
  decide (1 ≤ d.refdiv.toNat) && decide (1 ≤ d.pd1.toNat) && decide (1 ≤ d.pd2.toNat) && decide (1 ≤ vco.toNat)
    && decide (vco.toNat * d.refdiv.toNat % fref.toNat = 0) && decide (1 ≤ pllFbdiv fref vco d)
    && P.pllExtraLegal fref.toNat d.refdiv.toNat (pllFbdiv fref vco d) vco.toNat d.pd1.toNat d.pd2.toNat

/-- `fout = VCO / (PD1 * PD2)`, floor; at most VCO, so it fits. -/
def pllFout (vco : Word) (d : PllDiv) : Word := BitVec.ofNat 32 (vco.toNat / (d.pd1.toNat * d.pd2.toNat))

/-! ## Derived-clock arithmetic (R147, R148) -/

/-- `legal_k = T >= 1 and T <= src`. -/
def clkLegal (src target : Word) : Bool := decide (1 ≤ target.toNat) && decide (target.toNat ≤ src.toNat)

/-- `freq_k = src / ceil_div(src, T)`, floor. -/
def clkFreq (src target : Word) : Word := BitVec.ofNat 32 (src.toNat / ceilDiv src.toNat target.toNat)

/-- The realized frequency of clock k's hardwired source domain (R148, 10_state.md R29). -/
def Clkseq.source (c : Clkseq) : DClk → Word
  | .ref => c.freqXosc
  | .sys => c.freqPllSys
  | .usb => c.freqPllUsb
  | .adc => c.freqPllUsb
  | .rtc => c.freqPllUsb
  | .peri => c.freqClk.sys
  | .gpout => c.freqClk.sys

/-- The stage after CLK_k (R141, R149). -/
def stageAfter : DClk → Stage
  | .ref => .clk .sys
  | .sys => .clk .usb
  | .usb => .clk .adc
  | .adc => .clk .rtc
  | .rtc => .clk .peri
  | .peri => .clk .gpout
  | .gpout => .done

/-! ## Stages -/

/-- IDLE: a plan write stores, START starts (R140, R160; 10_state.md R40). -/
def Clkseq.idleTick (c : Clkseq) (a : SeqAct) : Clkseq :=
  match a with
  | .plan r v => { c with plan := Plan.write c.plan r v }
  | .start => { c with stage := .xosc }
  | .none => c

/-- Stage XOSC (R142). -/
def Clkseq.xoscTick (c : Clkseq) (ans : Answer) : Clkseq :=
  if c.plan.fxosc = 0#32 then c.fail .oscillatorStartFailed
  else match ans with
    | .none => c
    | .ok => { c with freqXosc := c.plan.fxosc, stage := .wdt }
    | .fail => c.fail .oscillatorStartFailed

/-- Stage WDT (R143): one tick, never a failure. -/
def Clkseq.wdtTick (c : Clkseq) : Clkseq :=
  { c with
    wdtDiv := BitVec.ofNat 16 (c.plan.fxosc.toNat / wdtTickHz)
    wdtOk := decide (c.plan.fxosc.toNat % wdtTickHz = 0) && decide (wdtTickHz ≤ c.plan.fxosc.toNat)
    stage := .pllSys }

/-- Stage PLL_SYS (R145). -/
def Clkseq.pllSysTick (P : Params) (c : Clkseq) (ans : Answer) : Clkseq :=
  if pllLegal P c.plan.fxosc c.plan.sysVco c.plan.sysDiv = false then c.fail .systemPllFailed
  else match ans with
    | .none => c
    | .ok => { c with freqPllSys := pllFout c.plan.sysVco c.plan.sysDiv, stage := .pllUsb }
    | .fail => c.fail .systemPllFailed

/-- Stage PLL_USB (R146). -/
def Clkseq.pllUsbTick (P : Params) (c : Clkseq) (ans : Answer) : Clkseq :=
  if pllLegal P c.plan.fxosc c.plan.usbVco c.plan.usbDiv = false then c.fail .usbPllFailed
  else match ans with
    | .none => c
    | .ok => { c with freqPllUsb := pllFout c.plan.usbVco c.plan.usbDiv, stage := .clk .ref }
    | .fail => c.fail .usbPllFailed

/-- Stage CLK_k (R149). -/
def Clkseq.clkTick (c : Clkseq) (k : DClk) (ans : Answer) : Clkseq :=
  if clkLegal (c.source k) (perClkGet c.plan.target k) = false then c.fail (.derivedClockFailed k)
  else match ans with
    | .none => c
    | .ok =>
      { c with
        freqClk := perClkSet c.freqClk k (clkFreq (c.source k) (perClkGet c.plan.target k))
        stage := stageAfter k }
    | .fail => c.fail (.derivedClockFailed k)

/-- One tick of CLKSEQ (R160), or reset (70_reset_and_hazards.md R210). -/
def Clkseq.tick (P : Params) (d : SeqDraw) (a : SeqAct) (c : Clkseq) : Clkseq :=
  if d.rst then Clkseq.reset P
  else match c.stage with
    | .idle => c.idleTick a
    | .xosc => c.xoscTick d.answer
    | .wdt => c.wdtTick
    | .pllSys => c.pllSysTick P d.answer
    | .pllUsb => c.pllUsbTick P d.answer
    | .clk k => c.clkTick k d.answer
    | .done => c
    | .failed => c

/-- Successive ticks of CLKSEQ, one for each pair of inputs and host access. -/
def Clkseq.run (P : Params) (ins : List (SeqDraw × SeqAct)) (c : Clkseq) : Clkseq :=
  ins.foldl (fun c i => c.tick P i.1 i.2) c

/-! ## The machine's `clk_seq` tick, and the meaning -/

/-- One `clk_seq` tick of the whole machine, in which the host makes access `a`: only CLKSEQ and its inputs change. -/
def tickClkseq (a : SeqAct) (s : State) : State :=
  { s with clkseq := s.clkseq.tick Config.params s.env.seqDraw a, env := s.env.popSeq }

/-- CLKSEQ.START (R140): the host presents START in this tick; bits 31:1 are ignored (30_encoding.md R90). -/
def execClkseqStart (_ignored : BitVec 31) (s : State) : Host.Outcome State Fault Refusal :=
  .next (tickClkseq .start s)

end Sys2Proof.Machine
end

