-- ==== Sys2Proof/Machine/Mdio.lean ====
section
/-! DEFINITION. MDIOC: the frame, the bit cells, one tick, and the meanings of MDIO.READ and MDIO.WRITE
(41_mdio_transactions.md). -/

namespace Sys2Proof.Machine

/-! ## The frame (R102) -/

/-- `frame = enc(op, phy, reg, wdata)`, of the latched operands. -/
def Mdioc.frame (m : Mdioc) : Word := enc m.op m.phy m.reg m.wdata

/-- `txbit(c)`: 1 in the preamble, then the frame word, bit 31 first. -/
def Mdioc.txbit (m : Mdioc) (c : BitVec 6) : Bool :=
  if c.toNat < 32 then true else m.frame.getLsbD (63 - c.toNat)

/-- `drive(c)`: a read releases the line from cell 46 on (90_conflicts.md C1). -/
def Mdioc.drive (m : Mdioc) (c : BitVec 6) : Role :=
  match m.op with
  | .wr => .out
  | .rd => if c.toNat < 46 then .out else .inp

/-- `line()` (00_scope.md R10): the driven level, or the PHY's where the line is released. -/
def Mdioc.line (m : Mdioc) (phyLevel : Bool) : Bool :=
  match m.mdioRole with
  | .out => m.mdioO
  | .inp => phyLevel

/-! ## Bit cells -/

/-- `enter_cell(c)` (R103). -/
def Mdioc.enterCell (m : Mdioc) (c : BitVec 6) : Mdioc :=
  { m with
    mstate := .low
    cell := c
    cnt := 0#16
    mdc := false
    mdioRole := m.drive c
    mdioO := match m.drive c with
      | .out => m.txbit c
      | .inp => m.mdioO }

/-- `complete()` (R107). -/
def Mdioc.complete (m : Mdioc) : Mdioc :=
  { m with
    rdata := match m.op with
      | .rd => m.rx
      | .wr => m.rdata
    mstate := .idle
    cell := 0#6
    cnt := 0#16
    done := true }

/-- The sample of a read's data cell, shifted in at the least significant end (R105, R106). -/
def Mdioc.sample (m : Mdioc) (phyLevel : Bool) : Mdioc :=
  if m.op = .rd ∧ 48 ≤ m.cell.toNat then
    { m with rx := (m.rx <<< 1) ||| (BitVec.ofBool (m.line phyLevel)).setWidth 16 }
  else m

/-- A tick of the LOW phase (R104). -/
def Mdioc.lowTick (m : Mdioc) : Mdioc :=
  if m.cnt.toNat + 1 < m.half.toNat then { m with cnt := m.cnt + 1#16 }
  else { m with mstate := .high, cnt := 0#16, mdc := true }

/-- A tick of the HIGH phase (R105). -/
def Mdioc.highTick (m : Mdioc) (phyLevel : Bool) : Mdioc :=
  if m.cnt.toNat + 1 < m.half.toNat then { m with cnt := m.cnt + 1#16 }
  else if m.cell.toNat = 63 then (m.sample phyLevel).complete
  else (m.sample phyLevel).enterCell (m.cell + 1#6)

/-- The running transaction's tick: nothing while IDLE. -/
def Mdioc.advance (m : Mdioc) (phyLevel : Bool) : Mdioc :=
  match m.mstate with
  | .idle => m
  | .low => m.lowTick
  | .high => m.highTick phyLevel

/-! ## Commands -/

/-- The latching of an accepted command and the entry of cell 0 (R101). `done` is left as it was. -/
def Mdioc.accept (m : Mdioc) (r : Request) : Mdioc :=
  Mdioc.enterCell
    { m with
      op := r.op
      phy := r.phy
      reg := r.reg
      wdata := match r.op with
        | .wr => r.data
        | .rd => 0#16
      half := m.div
      rx := 0#16 }
    0#6

/-- Whether the host presents a command in this tick. -/
def MdioAct.isCommand : MdioAct → Bool
  | .request _ => true
  | .reserved => true
  | .none => false
  | .div _ => false
  | .status _ => false

/-- A command presented while IDLE: accepted, or rejected for PIN_FAULT or a reserved encoding (R100, R115). -/
def Mdioc.present (m : Mdioc) (a : MdioAct) : Mdioc :=
  match a with
  | .request r => if m.pinFault then m.reject else m.accept r
  | .reserved => m.reject
  | .none => m
  | .div _ => m
  | .status _ => m

/-- Steps 1 and 2 of R117: the writes to MDIO_DIV and MDIO_STATUS. -/
def Mdioc.hostStore (P : Params) (m : Mdioc) (a : MdioAct) : Mdioc :=
  match a with
  | .div v => m.writeDiv P v
  | .status v => m.clearFlags v
  | .none => m
  | .request _ => m
  | .reserved => m

/-- Step 3 of R117 while a transaction runs: a command is rejected, then the pin fault or the phase's tick
(60_exceptions.md R187). -/
def Mdioc.busyTick (P : Params) (d : MdioDraw) (a : MdioAct) (m : Mdioc) : Mdioc :=
  let m' := if a.isCommand then m.reject else m
  if P.pinFallible && d.pinErr then m'.pinAbort else m'.advance d.line

/-- One tick of MDIOC (R117), or reset (70_reset_and_hazards.md R210: a host write in a reset tick is ignored). Steps 1 and
2 come before step 3, so a set of DONE or CMD_ERR wins over a clear of the same tick (step 4). -/
def Mdioc.tick (P : Params) (d : MdioDraw) (a : MdioAct) (m : Mdioc) : Mdioc :=
  if d.rst then Mdioc.reset P
  else if m.busy then (m.hostStore P a).busyTick P d a
  else (m.hostStore P a).present a

/-- Successive ticks of MDIOC, one for each pair of inputs and host access. -/
def Mdioc.run (P : Params) (ins : List (MdioDraw × MdioAct)) (m : Mdioc) : Mdioc :=
  ins.foldl (fun m i => m.tick P i.1 i.2) m

/-! ## The machine's `clk_mdio` tick, and the meanings -/

/-- One `clk_mdio` tick of the whole machine, in which the host makes access `a`: only MDIOC and its inputs change. -/
def tickMdioc (a : MdioAct) (s : State) : State :=
  { s with mdioc := s.mdioc.tick Config.params s.env.mdioDraw a, env := s.env.popMdio }

/-- MDIO.READ (R111): the host presents the read in this tick (R73: it "is acted on in the tick of the write"); TA and DATA
are ignored (R89). -/
def execMdioRead (phy reg : BitVec 5) (_ta : BitVec 2) (_data : BitVec 16) (s : State) :
    Host.Outcome State Fault Refusal :=
  .next (tickMdioc (.request (readRequest phy reg)) s)

/-- MDIO.WRITE (R110): the host presents the write in this tick; TA is ignored (R89). -/
def execMdioWrite (phy reg : BitVec 5) (_ta : BitVec 2) (data : BitVec 16) (s : State) :
    Host.Outcome State Fault Refusal :=
  .next (tickMdioc (.request (writeRequest phy reg data)) s)

end Sys2Proof.Machine
end

