-- ==== Sys2Proof/Machine/Bus.lean ====
section
/-! DEFINITION. The host's side of a step: where an access goes (20_memory.md R60, R67), what a write to each register
presents to its block (R63), and the choice of what this step does. -/

namespace Sys2Proof.Machine

/-- Where a host access goes. -/
inductive Route
  | reg (blk : Block) (off : Nat)
  | refused (r : Refusal)
  | fault (f : Fault)
  deriving DecidableEq, Repr

/-- An access to an offset of a window: performed if R60 admits it, refused if not. -/
def routeReg (blk : Block) (off width : Nat) : Route :=
  if admitted width off then .reg blk off else .refused .unadmittedAccess

/-- The address map (R67): an address in a window is an offset of its block; every other address is the platform's. -/
def route (P : Params) (t : Target) (width : Nat) : Route :=
  match t with
  | .reg blk off => routeReg blk off width
  | .mem addr =>
    if P.mdiocBase ≤ addr ∧ addr < P.mdiocBase + 0x100 then routeReg .mdioc (addr - P.mdiocBase) width
    else if P.clkseqBase ≤ addr ∧ addr < P.clkseqBase + 0x100 then routeReg .clkseq (addr - P.clkseqBase) width
    else .fault .platformAddress

/-- What a step does: stop, run a decoded command, or tick one block with a host access that is no command. `s` is the state
after the host and the schedule have moved past what the step takes from them. -/
inductive Fetched
  | refused (r : Refusal)
  | fault (f : Fault)
  | command (i : Instr) (s : State)
  | mdioc (a : MdioAct) (s : State)
  | clkseq (a : SeqAct) (s : State)
  deriving DecidableEq, Repr

/-- A tick of one block in which no host access has an effect on it. -/
def idleTick (blk : Block) (s : State) : Fetched :=
  match blk with
  | .mdioc => .mdioc .none s
  | .clkseq => .clkseq .none s

/-- A host write to an MDIOC register (R63; R61 for an unmapped offset, 10_state.md R27 for the read-only MDIO_RDATA). -/
def mdioWriteAction (off : Nat) (v : Word) (s : State) : Fetched :=
  match mdioRegAt off with
  | some .cmd => match decode .mdioCmd v with
    | .instr i => .command i s
    | .reject _ => .mdioc .reserved s
  | some .status => .mdioc (.status v) s
  | some .rdata => .mdioc .none s
  | some .div => .mdioc (.div v) s
  | none => .mdioc .none s

/-- A host write to a CLKSEQ register (R63; R61 for an unmapped offset, 10_state.md R33, R38, R39 for the read-only
registers). -/
def clkWriteAction (off : Nat) (v : Word) (s : State) : Fetched :=
  match clkRegAt off with
  | some .ctrl => match decode .clkCtrl v with
    | .instr i => .command i s
    | .reject _ => .clkseq .none s
  | some (.plan r) => .clkseq (.plan r v) s
  | some .status => .clkseq .none s
  | some .wdtDiv => .clkseq .none s
  | some .freqXosc => .clkseq .none s
  | some .freqPllSys => .clkseq .none s
  | some .freqPllUsb => .clkseq .none s
  | some (.freq _) => .clkseq .none s
  | none => .clkseq .none s

/-- `RegWrite(block, off, v)` (R10). -/
def writeAction (blk : Block) (off : Nat) (v : Word) (s : State) : Fetched :=
  match blk with
  | .mdioc => mdioWriteAction off v s
  | .clkseq => clkWriteAction off v s

/-- The host performs operation `op` in this tick of `blk`, with `rest` still to come (30_encoding.md R94). A WAIT whose
field does not yet hold the value stays at the head; one that names no field of a 32-bit register is refused (R9 gives
`v[hi:lo]` no meaning there). A read takes the value of the state before the tick (R66). -/
def perform (op : HostOp) (rest : List HostOp) (blk : Block) (off : Nat) (s : State) : Fetched :=
  match op with
  | .wr _ _ v => writeAction blk off v { s with host := { s.host with todo := rest } }
  | .rd dst _ _ =>
    idleTick blk { s with host := { todo := rest, vars := setVar dst (regRead s blk off) s.host.vars } }
  | .wait _ hi lo v =>
    if hi < lo ∨ 32 ≤ hi then .refused .noSuchField
    else if fieldOf (regRead s blk off) hi lo = v then idleTick blk { s with host := { s.host with todo := rest } }
    else idleTick blk s

/-- What the next step does. The schedule names the block that ticks; the host's next operation is performed if it is for
that block, and waits if not (R66, R70: one access per tick, in issue order). -/
def fetch (s : State) : Fetched :=
  match s.host.todo with
  | [] => idleTick s.env.nextClock { s with env := s.env.popClock }
  | op :: rest =>
    match route Config.params (opTarget op) (opWidth op) with
    | .refused r => .refused r
    | .fault f => .fault f
    | .reg blk off =>
      if blk = s.env.nextClock then perform op rest blk off { s with env := s.env.popClock }
      else idleTick s.env.nextClock { s with env := s.env.popClock }

end Sys2Proof.Machine
end

