-- ==== Sys2Proof/Machine/Dispatch.lean ====
section
/-! DEFINITION. One arm per instruction. -/

namespace Sys2Proof.Machine

def exec (i : Instr) (s : State) : Host.Outcome State Fault Refusal :=
  match i with
  | .mdioRead phy reg ta data => Sys2Proof.Machine.execMdioRead phy reg ta data s
  | .mdioWrite phy reg ta data => Sys2Proof.Machine.execMdioWrite phy reg ta data s
  | .clkseqStart ignored => Sys2Proof.Machine.execClkseqStart ignored s

end Sys2Proof.Machine
end

