-- ==== Sys2Proof/Machine/Step.lean ====
section
/-! DEFINITION. One step: one tick of one block (00_scope.md R6), with at most one host access. -/

namespace Sys2Proof.Machine

/-- One step. A host write that decodes to a command runs its meaning; every other step is a tick of one block. -/
def step (s : State) : Host.Outcome State Fault Refusal :=
  match fetch s with
  | .refused r => .refused r
  | .fault f => .fault f
  | .command i s' => exec i s'
  | .mdioc a s' => .next (tickMdioc a s')
  | .clkseq a s' => .next (tickClkseq a s')

/-- The block whose window holds a port's register, with the register's offset. -/
def portBlock : Port → Block
  | .mdioCmd => .mdioc
  | .clkCtrl => .clkseq

def portOff : Port → Nat
  | .mdioCmd => mdioRegOff .cmd
  | .clkCtrl => clkRegOff .ctrl

/-- `s` with a word of the opcode table as the host's next write, in the very next step: the host's write stands first, the
addressed block's clock ticks next, and reset is not asserted in that tick (log 8). The two blocks fetch nothing, so the
host is where an instruction comes from (10_state.md R21). -/
def State.withFetchWord (s : State) (_nbits w : Nat) : State :=
  let word := BitVec.ofNat 32 w
  let port := tablePort word
  { s with
    host := { s.host with todo := .wr (.reg (portBlock port) (portOff port)) 32 word :: s.host.todo }
    env := { s.env with
      clocks := portBlock port :: s.env.clocks
      mdioIn := match port with
        | .mdioCmd => { rst := false, line := none, pinErr := none } :: s.env.mdioIn
        | .clkCtrl => s.env.mdioIn
      seqIn := match port with
        | .mdioCmd => s.env.seqIn
        | .clkCtrl => { rst := false, answer := none } :: s.env.seqIn } }

end Sys2Proof.Machine
end

