-- ==== Sys2Proof/Machine/HostAgent.lean ====
section
/-! DEFINITION. The pseudo-instructions of 30_encoding.md R95, as the host operations they expand to. -/

namespace Sys2Proof.Machine

/-- `WR MDIO.<REG>, v` and the like. -/
def wrMdio (r : MdioReg) (v : Word) : HostOp := .wr (.reg .mdioc (mdioRegOff r)) 32 v

/-- `RD dst, MDIO.<REG>`. -/
def rdMdio (dst : Nat) (r : MdioReg) : HostOp := .rd dst (.reg .mdioc (mdioRegOff r)) 32

/-- `WAIT MDIO.STATUS.BUSY == 0`. -/
def waitMdioIdle : HostOp := .wait (.reg .mdioc (mdioRegOff .status)) 0 0 0

/-- `WR CLK.<REG>, v`. -/
def wrClk (r : ClkReg) (v : Word) : HostOp := .wr (.reg .clkseq (clkRegOff r)) 32 v

/-- `RD dst, CLK.<REG>`. -/
def rdClk (dst : Nat) (r : ClkReg) : HostOp := .rd dst (.reg .clkseq (clkRegOff r)) 32

/-- `WAIT CLK.STATUS.BUSY == 0`. -/
def waitClkIdle : HostOp := .wait (.reg .clkseq (clkRegOff .status)) 4 4 0

/-- The expansion of a pseudo-instruction (R95); none where an operand is out of range (R93). -/
def expand (c : HostCall) : Option (List HostOp) :=
  if c.wellFormed then
    match c with
    | .mdioRd dst phy reg =>
      some [waitMdioIdle, wrMdio .cmd (enc .rd (BitVec.ofNat 5 phy) (BitVec.ofNat 5 reg) 0), waitMdioIdle,
        rdMdio dst .rdata, wrMdio .status 0x00000002#32]
    | .mdioWr phy reg value =>
      some [waitMdioIdle, wrMdio .cmd (enc .wr (BitVec.ofNat 5 phy) (BitVec.ofNat 5 reg) (BitVec.ofNat 16 value)),
        waitMdioIdle, wrMdio .status 0x00000002#32]
    | .clkInit dst => some [wrClk .ctrl 0x00000001#32, waitClkIdle, rdClk dst .status]
  else none

end Sys2Proof.Machine
end

