-- ==== Sys2Proof/Machine/Platform.lean ====
section
/-! DEFINITION. The two platform devices of which the spec keeps one rule each: the watchdog tick generator
(60_exceptions.md R197) and the external MicrosecondClock (R196). -/

namespace Sys2Proof.Machine

/-- Whether stage WDT has programmed the watchdog tick generator since reset: the sequence has passed that stage (R143). -/
def Clkseq.wdtProgrammed (c : Clkseq) : Bool :=
  match c.stage with
  | .idle => false
  | .xosc => false
  | .wdt => false
  | .failed => c.err != some .oscillatorStartFailed
  | .pllSys => true
  | .pllUsb => true
  | .clk _ => true
  | .done => true

/-- The frequency in Hz the watchdog tick generator ticks at in the n-th `clk_seq` tick: exactly `FXOSC / wdt_div` when
`wdt_ok = 1` (R197); when `wdt_ok = 0` any value (93_implementation_defined.md U9) other than 1 MHz (42_clock_sequencer.md
R143); before it is programmed, any value (log 10). -/
def Clkseq.wdtHz (n : Nat) (c : Clkseq) : ℚ :=
  if c.wdtProgrammed then
    if c.wdtOk then (c.plan.fxosc.toNat : ℚ) / (c.wdtDiv.toNat : ℚ) else (wdtTickHz : ℚ) + (Config.wdtErrorHz n).val
  else Config.wdtFreeHz n

/-- The frequency of the watchdog tick generator in a state of the machine. -/
def State.wdtHz (s : State) : ℚ := s.clkseq.wdtHz s.env.seqTicks

/-- `elapsed(start) = (now - start) mod 2^MICROS_WIDTH` (R196): the subtraction wraps. -/
def elapsed (P : Params) (now start : BitVec P.microsWidth) : Nat := (now - start).toNat

/-- A wait of `n` units since `start` ends at the first sample with `elapsed(start) >= n` (R196). -/
def delayOver (P : Params) (n : Nat) (now start : BitVec P.microsWidth) : Bool := decide (n ≤ elapsed P now start)

end Sys2Proof.Machine
end

