-- ==== Sys2Proof/Machine/RefPhy.lean ====
section
/-! DEFINITION. The reference PHY of 41_mdio_transactions.md R119: an environment for statements about MDIOC, no part of
it and no part of State (log 13). -/

namespace Sys2Proof.Machine

/-- The reference PHY: the devices present and their registers (R119), and its receiver. Its register file is a function,
since it is no machine state. -/
structure RefPhy where
  present : BitVec 5 → Bool
  /-- `P[a][r]` -/
  regs : BitVec 5 → BitVec 5 → BitVec 16
  /-- MDC as last seen, to find its rising edges. -/
  lastMdc : Bool
  /-- Consecutive 1s seen, counted up to 32. -/
  ones : Nat
  /-- Frame bits seen since the start of a frame, 1 after the first bit of ST; 0 while there is no frame. -/
  pos : Nat
  /-- The last 16 bits seen. -/
  shift : BitVec 16
  /-- OP, PHYAD and REGAD of the frame being received. -/
  op : BitVec 2
  phyad : BitVec 5
  regad : BitVec 5
  /-- The level it gives a released line. -/
  level : Bool

/-- Whether the frame being received is a read of a device that is present. -/
def RefPhy.answers (p : RefPhy) : Bool := p.present p.phyad && p.op == 0b10#2

/-- Whether it is a write to a device that is present. -/
def RefPhy.stores (p : RefPhy) : Bool := p.present p.phyad && p.op == 0b01#2

/-- The level presented from the rising edge at which the `n`-th frame bit is seen: in a read, 1 at cell 46 (n = 15), 0 at
cell 47 (n = 16), and data bit 15-i at cell 48+i (n = 17+i); else the idle level 1 (R119). -/
def RefPhy.presented (p : RefPhy) (n : Nat) : Bool :=
  if p.answers ∧ 16 ≤ n then
    if n = 16 then false else (p.regs p.phyad p.regad).getLsbD (32 - n)
  else true

/-- The register file with one register replaced. -/
def storeReg (regs : BitVec 5 → BitVec 5 → BitVec 16) (a r : BitVec 5) (v : BitVec 16) :
    BitVec 5 → BitVec 5 → BitVec 16 :=
  fun a' r' => if a' = a ∧ r' = r then v else regs a' r'

/-- The bit `b` seen at a rising edge joins the receiver's history. -/
def RefPhy.shiftIn (p : RefPhy) (b : Bool) : RefPhy :=
  { p with
    ones := if b then min (p.ones + 1) 32 else 0
    shift := (p.shift <<< 1) ||| (BitVec.ofBool b).setWidth 16 }

/-- The header is complete at the 14th frame bit: ST, OP, PHYAD, REGAD. -/
def RefPhy.latchHeader (p : RefPhy) : RefPhy :=
  { p with op := p.shift.extractLsb' 10 2, phyad := p.shift.extractLsb' 5 5, regad := p.shift.extractLsb' 0 5 }

/-- A rising edge of MDC at which the line has level `b`. A 0 after 32 consecutive 1s starts a frame, wherever the receiver
was; the second bit must be 1; the header is taken at the 14th bit; a write is stored at the 32nd (R119). -/
def RefPhy.edge (p : RefPhy) (b : Bool) : RefPhy :=
  if b = false ∧ p.ones = 32 then { p.shiftIn b with pos := 1, level := true }
  else if p.pos = 0 ∨ (p.pos = 1 ∧ b = false) ∨ 32 ≤ p.pos then { p.shiftIn b with pos := 0, level := true }
  else if p.pos + 1 = 14 then { (p.shiftIn b).latchHeader with pos := 14, level := true }
  else if p.pos + 1 < 14 then { p.shiftIn b with pos := p.pos + 1, level := true }
  else if p.pos + 1 = 32 ∧ p.stores then
    { p.shiftIn b with pos := 0, level := true, regs := storeReg p.regs p.phyad p.regad (p.shiftIn b).shift }
  else { p.shiftIn b with pos := p.pos + 1, level := p.presented (p.pos + 1) }

/-- What the PHY sees in a tick: the lines of MDIOC's state before the tick (Moore outputs, 00_scope.md R6). -/
def RefPhy.observe (p : RefPhy) (m : Mdioc) : RefPhy :=
  let p' := { p with lastMdc := m.mdc }
  if m.mdc && !p.lastMdc then p'.edge (m.line p.level) else p'

/-- One `clk_mdio` tick of MDIOC beside the reference PHY: no reset and no pin failure; the PHY answers the released line. -/
def coTick (P : Params) (a : MdioAct) (s : Mdioc × RefPhy) : Mdioc × RefPhy :=
  let p := s.2.observe s.1
  (s.1.tick P { rst := false, line := p.level, pinErr := false } a, p)

/-- One tick for each host access of a list. -/
def coRun (P : Params) (as : List MdioAct) (s : Mdioc × RefPhy) : Mdioc × RefPhy :=
  as.foldl (fun s a => coTick P a s) s

end Sys2Proof.Machine
end

