-- ==== Sys2Proof/Safety.lean ====
section
/-! DEFINITION. The terms claims are stated in: ticks without reset or pin failure, the host's next access, and the
invariants of the two blocks and of the machine. -/

namespace Sys2Proof.Machine

/-! ## Inputs -/

/-- A tick of MDIOC in which reset is not asserted and no pin failure counts (60_exceptions.md R182). -/
def MdioDraw.quiet (P : Params) (d : MdioDraw) : Prop := d.rst = false ∧ (P.pinFallible && d.pinErr) = false

/-- The host's next operation is the 32-bit write of `v` to offset `off` of `blk`, and `blk`'s clock ticks next. -/
def State.writesNext (s : State) (blk : Block) (off : Nat) (v : Word) (rest : List HostOp) : Prop :=
  s.host.todo = .wr (.reg blk off) 32 v :: rest ∧ s.env.nextClock = blk

/-- `s` after the schedule and the host have moved past the operation at the head, leaving `rest`. -/
def State.moved (s : State) (rest : List HostOp) : State :=
  { s with host := { s.host with todo := rest }, env := s.env.popClock }

/-! ## MDIOC -/

/-- What holds of MDIOC in every state a run can reach. -/
structure Mdioc.Inv (P : Params) (m : Mdioc) : Prop where
  /-- MDIO_DIV holds a legal value (10_state.md R28). -/
  divLegal : P.ticksPerUnit ≤ m.div.toNat
  /-- IDLE: the counters are 0 (R45, R107, R182). -/
  idleClear : m.mstate = .idle → m.cell = 0#6 ∧ m.cnt = 0#16
  /-- The running half-cell is at least one time unit (R104). -/
  busyHalf : m.mstate ≠ .idle → P.ticksPerUnit ≤ m.half.toNat
  /-- `cnt` is in 0..half-1 (R22). -/
  busyCnt : m.mstate ≠ .idle → m.cnt.toNat < m.half.toNat
  /-- MDC is high exactly in the HIGH phase (R103, R104). -/
  busyMdc : m.mstate ≠ .idle → (m.mdc = true ↔ m.mstate = .high)
  /-- The line's role is that of the current cell (R103). -/
  busyRole : m.mstate ≠ .idle → m.mdioRole = m.drive m.cell
  /-- A driven line carries the current cell's bit (R103). -/
  busyLevel : m.mstate ≠ .idle → m.mdioRole = .out → m.mdioO = m.txbit m.cell
  /-- No transaction runs while PIN_FAULT is set (60_exceptions.md R191). -/
  busyNoFault : m.mstate ≠ .idle → m.pinFault = false
  /-- A read has no payload (R101). -/
  readNoPayload : m.op = .rd → m.wdata = 0#16

/-! ## CLKSEQ -/

/-- The number of the stage the sequence has reached: the current stage, or the one that failed. -/
def Clkseq.reached (c : Clkseq) : Nat :=
  match c.stage, c.err with
  | .failed, some .oscillatorStartFailed => 1
  | .failed, some .systemPllFailed => 3
  | .failed, some .usbPllFailed => 4
  | .failed, some (.derivedClockFailed k) => 5 + clkIndex k
  | .failed, none => 0
  | st, _ => st.number

/-- The frequency a plan gives clock k's source domain: the oscillator, a PLL's output, or the system clock (R148). -/
def Plan.source (p : Plan) : DClk → Word
  | .ref => p.fxosc
  | .sys => pllFout p.sysVco p.sysDiv
  | .usb => pllFout p.usbVco p.usbDiv
  | .adc => pllFout p.usbVco p.usbDiv
  | .rtc => pllFout p.usbVco p.usbDiv
  | .peri => clkFreq (pllFout p.sysVco p.sysDiv) p.target.sys
  | .gpout => clkFreq (pllFout p.sysVco p.sysDiv) p.target.sys

/-- A plan that passes the legality check of every stage (R142, R144, R147). -/
structure Plan.Legal (P : Params) (p : Plan) : Prop where
  fxosc : p.fxosc ≠ 0#32
  sys : pllLegal P p.fxosc p.sysVco p.sysDiv = true
  usb : pllLegal P p.fxosc p.usbVco p.usbDiv = true
  clk : ∀ k, clkLegal (Plan.source p k) (perClkGet p.target k) = true

/-- What holds of CLKSEQ in every state a run can reach: the realized values of the stages that have succeeded are those the
plan gives, and those of the stages that have not are 0 (10_state.md R39, 42_clock_sequencer.md R156). -/
structure Clkseq.Inv (P : Params) (c : Clkseq) : Prop where
  errIff : c.err = none ↔ c.stage ≠ .failed
  xoscWait : c.reached ≤ 1 → c.freqXosc = 0#32
  xoscDone : 2 ≤ c.reached → c.freqXosc = c.plan.fxosc ∧ c.plan.fxosc ≠ 0#32
  wdtWait : c.reached ≤ 2 → c.wdtDiv = 0#16 ∧ c.wdtOk = false
  wdtDone : 3 ≤ c.reached →
    c.wdtDiv = BitVec.ofNat 16 (c.plan.fxosc.toNat / wdtTickHz) ∧
    (c.wdtOk = true ↔ c.plan.fxosc.toNat % wdtTickHz = 0 ∧ wdtTickHz ≤ c.plan.fxosc.toNat)
  sysWait : c.reached ≤ 3 → c.freqPllSys = 0#32
  sysDone : 4 ≤ c.reached →
    pllLegal P c.plan.fxosc c.plan.sysVco c.plan.sysDiv = true ∧ c.freqPllSys = pllFout c.plan.sysVco c.plan.sysDiv
  usbWait : c.reached ≤ 4 → c.freqPllUsb = 0#32
  usbDone : 5 ≤ c.reached →
    pllLegal P c.plan.fxosc c.plan.usbVco c.plan.usbDiv = true ∧ c.freqPllUsb = pllFout c.plan.usbVco c.plan.usbDiv
  clkWait : ∀ k, c.reached ≤ 5 + clkIndex k → perClkGet c.freqClk k = 0#32
  clkDone : ∀ k, 6 + clkIndex k ≤ c.reached →
    clkLegal (c.source k) (perClkGet c.plan.target k) = true ∧
    perClkGet c.freqClk k = clkFreq (c.source k) (perClkGet c.plan.target k)

/-! ## The machine -/

/-- The keys of the host's variables rise strictly: equal variables are equal lists. -/
def varsSorted : List (Nat × Word) → Prop
  | [] => True
  | (k, _) :: rest => (∀ e ∈ rest, k < e.1) ∧ varsSorted rest

/-- The machine's invariant. -/
structure State.Inv (s : State) : Prop where
  mdioc : s.mdioc.Inv Config.params
  clkseq : s.clkseq.Inv Config.params
  vars : varsSorted s.host.vars

/-- A safe outcome of a step: the machine goes on. -/
def goesOn (o : Host.Outcome State Fault Refusal) : Prop := ∃ t, o = .next t

end Sys2Proof.Machine
end

