-- ==== Sys2Proof/Certificates/Slice0/Obligations.lean ====
section
/-! DEFINITION. The statements for the provers. Each says in its docstring which rule of spec/ it formalises. -/

open Sys2Proof Sys2Proof.Machine

/-! ## Encoding -/

/-- Decoding the word of any instruction, at the register it is written to, gives that instruction back, with every operand
at every value (30_encoding.md R81, R86, R90). -/
def Obligations.DecodeOfEncodeGivesInstruction : Prop :=
  ∀ i : Instr, decode i.port (encode i) = .instr i

/-- A word that decodes to an instruction is the word of that instruction, at that register. That two words of one register never
decode to one instruction is the model's choice (log 6): Instr carries the ignored TA, DATA and bits 31:1, where the spec has
0x50000000 and 0x50030000 both decode to MDIO.WRITE phy 0, reg 0, value 0 (95_test_vectors.md E2). -/
def Obligations.EncodeOfDecodeGivesWord : Prop :=
  ∀ (p : Port) (w : Word) (i : Instr), decode p w = .instr i → encode i = w ∧ i.port = p

/-- R92, which the spec derives from R88 and R90: MDIO.READ when w[31:28] = 0110, MDIO.WRITE when 0101, REJECT otherwise; CLKSEQ.START when w[0] = 1, NONE otherwise. -/
def Obligations.EveryWordHasOneDecoding : Prop :=
  ∀ w : Word,
    (w.extractLsb' 28 4 = 0b0110#4 →
      decode .mdioCmd w =
        .instr (.mdioRead (w.extractLsb' 23 5) (w.extractLsb' 18 5) (w.extractLsb' 16 2) (w.extractLsb' 0 16))) ∧
    (w.extractLsb' 28 4 = 0b0101#4 →
      decode .mdioCmd w =
        .instr (.mdioWrite (w.extractLsb' 23 5) (w.extractLsb' 18 5) (w.extractLsb' 16 2) (w.extractLsb' 0 16))) ∧
    (w.extractLsb' 28 4 ≠ 0b0110#4 → w.extractLsb' 28 4 ≠ 0b0101#4 → ∃ r, decode .mdioCmd w = .reject r) ∧
    (w.getLsbD 0 = true → decode .clkCtrl w = .instr (.clkseqStart (w.extractLsb' 1 31))) ∧
    (w.getLsbD 0 = false → decode .clkCtrl w = .reject .noCommand)

/-- Words of 95_test_vectors.md E1 and E2, and of E3 for CLK_CTRL, decode to what is written beside them there. -/
def Obligations.SpecWordsDecode : Prop :=
  decode .mdioCmd 0x501201E1#32 = .instr (.mdioWrite 0 4 0b10 0x01E1) ∧
  decode .mdioCmd 0x63840000#32 = .instr (.mdioRead 7 1 0b00 0) ∧
  decode .mdioCmd 0x51C6A5C3#32 = .instr (.mdioWrite 3 17 0b10 0xA5C3) ∧
  decode .mdioCmd 0x6003FFFF#32 = .instr (.mdioRead 0 0 0b11 0xFFFF) ∧
  decode .mdioCmd 0xA0000000#32 = .reject .badStart ∧
  decode .mdioCmd 0x70000000#32 = .reject .reservedOp ∧
  decode .clkCtrl 0x80000001#32 = .instr (.clkseqStart 0x40000000) ∧
  decode .clkCtrl 0xFFFFFFFE#32 = .reject .noCommand

/-- The frame word of R87, by shifts and ors. -/
def Obligations.FrameWordFollowsEncodingFunction : Prop :=
  ∀ (phy reg : BitVec 5) (data : BitVec 16),
    enc .rd phy reg data = (0x60000000#32 ||| phy.setWidth 32 <<< 23) ||| reg.setWidth 32 <<< 18 ∧
    enc .wr phy reg data =
      ((0x50020000#32 ||| phy.setWidth 32 <<< 23) ||| reg.setWidth 32 <<< 18) ||| data.setWidth 32

/-- R89: the TA field of a command, the DATA field of a read and bits 31:1 of START may hold any value without changing what
the command does. -/
def Obligations.IgnoredFieldsChangeNothing : Prop :=
  ∀ (s : State) (phy reg : BitVec 5) (ta ta' : BitVec 2) (data data' : BitVec 16) (x x' : BitVec 31),
    exec (.mdioRead phy reg ta data) s = exec (.mdioRead phy reg ta' data') s ∧
    exec (.mdioWrite phy reg ta data) s = exec (.mdioWrite phy reg ta' data) s ∧
    exec (.clkseqStart x) s = exec (.clkseqStart x') s

/-- Byte lane i of a register is bits [8i+7:8i] (20_memory.md R64, "a decision and no rule depends on it"; log 15): the four lanes of a word are the word, and decoding them
is decoding it. -/
def Obligations.ByteLanesRecoverWord : Prop :=
  ∀ (p : Port) (w : Word),
    wordOfLanes (w.extractLsb' 0 8) (w.extractLsb' 8 8) (w.extractLsb' 16 8) (w.extractLsb' 24 8) = w ∧
    decodeBytes p (lanesOfWord w) = decode p w

/-! ## MDIOC: commands -/

/-- R100, R101: a word written to MDIO_CMD starts a transaction exactly when MDIOC is IDLE, PIN_FAULT is 0 and the word decodes;
the state then is that of R101, with cell 0 entered (R103). Every other word is rejected: the tick is what it would have been
without the write, with CMD_ERR set. Nothing but MDIOC, its inputs and the host's list of operations changes. -/
def Obligations.WriteToCmdIsAcceptedOrRejected : Prop :=
  ∀ (s : State) (w : Word) (rest : List HostOp),
    s.writesNext .mdioc 0x00 w rest → s.env.nextMdio.rst = false →
    ∃ m : Mdioc,
      step s = .next { s with
        mdioc := m, host := { s.host with todo := rest }, env := s.env.popClock.popMdio } ∧
      (s.mdioc.mstate = .idle ∧ s.mdioc.pinFault = false ∧
          (w.extractLsb' 28 4 = 0b0110#4 ∨ w.extractLsb' 28 4 = 0b0101#4) →
        m = { s.mdioc with
          op := if w.extractLsb' 28 2 = 0b10#2 then .rd else .wr
          phy := w.extractLsb' 23 5, reg := w.extractLsb' 18 5
          wdata := if w.extractLsb' 28 2 = 0b10#2 then 0#16 else w.extractLsb' 0 16
          half := s.mdioc.div, rx := 0#16
          mstate := .low, cell := 0#6, cnt := 0#16, mdc := false, mdioRole := .out, mdioO := true }) ∧
      (¬ (s.mdioc.mstate = .idle ∧ s.mdioc.pinFault = false ∧
          (w.extractLsb' 28 4 = 0b0110#4 ∨ w.extractLsb' 28 4 = 0b0101#4)) →
        m = { s.mdioc.tick Config.params s.env.mdioDraw .none with cmdErr := true })

/-- MDIO.READ completes: from IDLE with PIN_FAULT 0, in a tick without reset, it latches its operands and enters cell 0
(R100, R101, R111), and nothing else changes but the inputs the tick takes. -/
def Obligations.AcceptedReadStartsTransaction : Prop :=
  ∀ (s : State) (phy reg : BitVec 5) (ta : BitVec 2) (data : BitVec 16),
    s.mdioc.mstate = .idle → s.mdioc.pinFault = false → s.env.nextMdio.rst = false →
    exec (.mdioRead phy reg ta data) s = .next { s with
      mdioc := { s.mdioc with
        op := .rd, phy := phy, reg := reg, wdata := 0#16, half := s.mdioc.div, rx := 0#16
        mstate := .low, cell := 0#6, cnt := 0#16, mdc := false, mdioRole := .out, mdioO := true }
      env := s.env.popMdio }

/-- MDIO.WRITE completes: from IDLE with PIN_FAULT 0, in a tick without reset, it latches its operands and its payload and
enters cell 0 (R100, R101, R110), and nothing else changes but the inputs the tick takes. -/
def Obligations.AcceptedWriteStartsTransaction : Prop :=
  ∀ (s : State) (phy reg : BitVec 5) (ta : BitVec 2) (data : BitVec 16),
    s.mdioc.mstate = .idle → s.mdioc.pinFault = false → s.env.nextMdio.rst = false →
    exec (.mdioWrite phy reg ta data) s = .next { s with
      mdioc := { s.mdioc with
        op := .wr, phy := phy, reg := reg, wdata := data, half := s.mdioc.div, rx := 0#16
        mstate := .low, cell := 0#6, cnt := 0#16, mdc := false, mdioRole := .out, mdioO := true }
      env := s.env.popMdio }

/-- R115, R187(1), (4): a command that is not accepted sets CMD_ERR and changes nothing else: the tick is otherwise the tick
without the command, whether the transaction runs on, completes or aborts in it. -/
def Obligations.RejectedCommandOnlySetsCmdErr : Prop :=
  ∀ (P : Params) (d : MdioDraw) (a : MdioAct) (m : Mdioc),
    d.rst = false → a.isCommand = true →
    (m.mstate ≠ .idle ∨ m.pinFault = true ∨ a = .reserved) →
    m.tick P d a = { m.tick P d .none with cmdErr := true }

/-- The two MDIO instructions where they are turned away: `exec` goes on, and the tick is the tick without the command, with
CMD_ERR set (R115). -/
def Obligations.RejectedInstructionLeavesTransaction : Prop :=
  ∀ (s : State) (phy reg : BitVec 5) (ta : BitVec 2) (data : BitVec 16),
    s.env.nextMdio.rst = false → (s.mdioc.mstate ≠ .idle ∨ s.mdioc.pinFault = true) →
    exec (.mdioRead phy reg ta data) s = .next { s with
      mdioc := { s.mdioc.tick Config.params s.env.mdioDraw .none with cmdErr := true }, env := s.env.popMdio } ∧
    exec (.mdioWrite phy reg ta data) s = .next { s with
      mdioc := { s.mdioc.tick Config.params s.env.mdioDraw .none with cmdErr := true }, env := s.env.popMdio }

/-- R210: in a tick with reset asserted the block's post-state is its reset state, whatever it was doing and whatever the host
writes; an instruction presented in it is ignored. -/
def Obligations.ResetTickGivesResetState : Prop :=
  (∀ (P : Params) (d : MdioDraw) (a : MdioAct) (m : Mdioc), d.rst = true → m.tick P d a = Mdioc.reset P) ∧
  (∀ (P : Params) (d : SeqDraw) (a : SeqAct) (c : Clkseq), d.rst = true → c.tick P d a = Clkseq.reset P) ∧
  (∀ (s : State) (phy reg : BitVec 5) (ta : BitVec 2) (data : BitVec 16), s.env.nextMdio.rst = true →
    exec (.mdioRead phy reg ta data) s = .next { s with mdioc := Mdioc.reset Config.params, env := s.env.popMdio } ∧
    exec (.mdioWrite phy reg ta data) s = .next { s with mdioc := Mdioc.reset Config.params, env := s.env.popMdio }) ∧
  (∀ (s : State) (x : BitVec 31), s.env.nextSeq.rst = true →
    exec (.clkseqStart x) s = .next { s with clkseq := Clkseq.reset Config.params, env := s.env.popSeq })

/-! ## MDIOC: bit cells -/

/-- R104: one quiet tick of the LOW phase, whatever the host does in it, and the length of the phase. -/
def Obligations.LowPhaseLastsHalfTicks : Prop :=
  (∀ (P : Params) (d : MdioDraw) (a : MdioAct) (m : Mdioc), d.quiet P → m.mstate = .low →
    let t := m.tick P d a
    (m.cnt.toNat + 1 < m.half.toNat → t.mstate = .low ∧ t.cnt = m.cnt + 1#16 ∧ t.mdc = m.mdc) ∧
    (m.half.toNat ≤ m.cnt.toNat + 1 → t.mstate = .high ∧ t.cnt = 0#16 ∧ t.mdc = true) ∧
    t.mdioRole = m.mdioRole ∧ t.mdioO = m.mdioO ∧ t.cell = m.cell ∧ t.op = m.op ∧ t.phy = m.phy ∧ t.reg = m.reg ∧
    t.wdata = m.wdata ∧ t.half = m.half ∧ t.rx = m.rx ∧ t.rdata = m.rdata ∧ t.pinFault = m.pinFault) ∧
  (∀ (P : Params) (ins : List (MdioDraw × MdioAct)) (m : Mdioc), (∀ i ∈ ins, i.1.quiet P) →
    m.mstate = .low → m.cnt = 0#16 → 1 ≤ m.half.toNat →
    (ins.length < m.half.toNat → (Mdioc.run P ins m).mstate = .low) ∧
    (ins.length = m.half.toNat → (Mdioc.run P ins m).mstate = .high ∧ (Mdioc.run P ins m).cnt = 0#16))

/-- R105, R107: one quiet tick of the HIGH phase, whatever the host does in it, and the length of the phase. The last tick of a
read's data cell shifts in the line's level; the last tick of cell 63 completes; that of every other cell enters the next. -/
def Obligations.HighPhaseEndsInNextCellOrCompletion : Prop :=
  (∀ (P : Params) (d : MdioDraw) (a : MdioAct) (m : Mdioc), d.quiet P → m.mstate = .high →
    let t := m.tick P d a
    let rx' := if m.op = .rd ∧ 48 ≤ m.cell.toNat then
        (m.rx <<< 1) ||| (if m.line d.line then 1#16 else 0#16) else m.rx
    (m.cnt.toNat + 1 < m.half.toNat →
      t.mstate = .high ∧ t.cnt = m.cnt + 1#16 ∧ t.cell = m.cell ∧ t.mdc = m.mdc ∧ t.mdioRole = m.mdioRole ∧
      t.mdioO = m.mdioO ∧ t.rx = m.rx ∧ t.rdata = m.rdata) ∧
    (m.half.toNat ≤ m.cnt.toNat + 1 → m.cell = 63#6 →
      t.mstate = .idle ∧ t.cell = 0#6 ∧ t.cnt = 0#16 ∧ t.done = true ∧ t.rdata = (if m.op = .rd then rx' else m.rdata) ∧
      t.mdc = m.mdc ∧ t.mdioRole = m.mdioRole ∧ t.mdioO = m.mdioO) ∧
    (m.half.toNat ≤ m.cnt.toNat + 1 → m.cell ≠ 63#6 →
      t.mstate = .low ∧ t.cell = m.cell + 1#6 ∧ t.cnt = 0#16 ∧ t.mdc = false ∧ t.rx = rx' ∧ t.rdata = m.rdata ∧
      t.mdioRole = m.drive (m.cell + 1#6) ∧
      t.mdioO = (if m.drive (m.cell + 1#6) = .out then m.txbit (m.cell + 1#6) else m.mdioO)) ∧
    t.op = m.op ∧ t.phy = m.phy ∧ t.reg = m.reg ∧ t.wdata = m.wdata ∧ t.half = m.half ∧ t.pinFault = m.pinFault) ∧
  (∀ (P : Params) (ins : List (MdioDraw × MdioAct)) (m : Mdioc), (∀ i ∈ ins, i.1.quiet P) →
    m.mstate = .high → m.cnt = 0#16 → 1 ≤ m.half.toNat →
    (ins.length < m.half.toNat → (Mdioc.run P ins m).mstate = .high) ∧
    (ins.length = m.half.toNat → (Mdioc.run P ins m).mstate ≠ .high ∧ (Mdioc.run P ins m).cnt = 0#16))

/-- R82: the 64 cells of the frame, their driver and the value the master sends. -/
def Obligations.FrameFollowsCellMap : Prop :=
  ∀ (m : Mdioc) (c : BitVec 6),
    m.drive c = (if m.op = .rd ∧ 46 ≤ c.toNat then .inp else .out) ∧
    (c.toNat < 32 → m.txbit c = true) ∧
    m.txbit 32#6 = false ∧ m.txbit 33#6 = true ∧
    (m.op = .rd → m.txbit 34#6 = true ∧ m.txbit 35#6 = false) ∧
    (m.op = .wr → m.txbit 34#6 = false ∧ m.txbit 35#6 = true) ∧
    (36 ≤ c.toNat → c.toNat ≤ 40 → m.txbit c = m.phy.getLsbD (40 - c.toNat)) ∧
    (41 ≤ c.toNat → c.toNat ≤ 45 → m.txbit c = m.reg.getLsbD (45 - c.toNat)) ∧
    (m.op = .wr → m.txbit 46#6 = true ∧ m.txbit 47#6 = false) ∧
    (m.op = .wr → 48 ≤ c.toNat → m.txbit c = m.wdata.getLsbD (63 - c.toNat))

/-- R113, which the spec derives from R101, R104 and R105: where an accepted command stands after n ticks without reset or pin failure, whatever the host does meanwhile: cell
n / 2h, LOW in its first h ticks and HIGH in its last h, and IDLE with DONE after exactly 128 h. -/
def Obligations.TransactionTimingIsExact : Prop :=
  ∀ (P : Params) (m : Mdioc) (r : Request) (ins : List (MdioDraw × MdioAct)),
    (∀ i ∈ ins, i.1.quiet P) → 1 ≤ m.div.toNat →
    let h := m.div.toNat
    let n := ins.length
    let t := Mdioc.run P ins (m.accept r)
    (n < 128 * h →
      t.half = m.div ∧ t.cell.toNat = n / (2 * h) ∧ t.cnt.toNat = n % h ∧
      t.mstate = (if n % (2 * h) < h then .low else .high) ∧ t.mdc = (if n % (2 * h) < h then false else true)) ∧
    (n = 128 * h → t.mstate = .idle ∧ t.done = true ∧ t.cell = 0#6 ∧ t.mdc = true)

/-- R108, R110, R111: what the lines carry n ticks after acceptance: the role of the current cell, and in every driven cell the
bit of the frame of the accepted operands: 32 ones, then the frame word, bit 31 first. -/
def Obligations.WireCarriesFrame : Prop :=
  ∀ (P : Params) (m : Mdioc) (r : Request) (ins : List (MdioDraw × MdioAct)),
    (∀ i ∈ ins, i.1.quiet P) → 1 ≤ m.div.toNat → ins.length < 128 * m.div.toNat →
    let c := ins.length / (2 * m.div.toNat)
    let t := Mdioc.run P ins (m.accept r)
    (r.op = .wr → t.mdioRole = .out) ∧
    (r.op = .rd → t.mdioRole = (if c < 46 then .out else .inp)) ∧
    (t.mdioRole = .out → t.mdioO = (if c < 32 then true else (enc r.op r.phy r.reg r.data).getLsbD (63 - c)))

/-- R106, R111: a read that completes leaves in MDIO_RDATA the sixteen levels the line had in the last HIGH ticks of cells 48 to
63, cell 48's as bit 15; tick k after acceptance is entry k - 1 of the list, and cell c is sampled in tick (2c+2) h. -/
def Obligations.ReadReturnsSixteenSamples : Prop :=
  ∀ (P : Params) (m : Mdioc) (phy reg : BitVec 5) (ins : List (MdioDraw × MdioAct)),
    (∀ i ∈ ins, i.1.quiet P) → 1 ≤ m.div.toNat → ins.length = 128 * m.div.toNat →
    ∀ (c : Nat) (x : MdioDraw × MdioAct), 48 ≤ c → c ≤ 63 → ins[(2 * c + 2) * m.div.toNat - 1]? = some x →
      (Mdioc.run P ins (m.accept (readRequest phy reg))).rdata.getLsbD (63 - c) = x.1.line

/-- R27: MDIO_RDATA changes only at the completion of a read, or at reset: not by a write transaction, a rejected command, a pin
fault or a host write. -/
def Obligations.ReadDataChangesOnlyAtReadCompletion : Prop :=
  ∀ (P : Params) (d : MdioDraw) (a : MdioAct) (m : Mdioc), d.rst = false →
    (m.tick P d a).rdata ≠ m.rdata →
    m.mstate = .high ∧ m.cell = 63#6 ∧ m.op = .rd ∧ m.half.toNat ≤ m.cnt.toNat + 1 ∧
      (P.pinFallible && d.pinErr) = false ∧ (m.tick P d a).mstate = .idle ∧ (m.tick P d a).done = true

/-- R41, R117 steps 2 to 4: DONE, CMD_ERR and PIN_FAULT after a tick without reset, by the events that set them and the host
write that clears the first two; a set wins over a clear. -/
def Obligations.StickyFlagsFollowTheirEvents : Prop :=
  ∀ (P : Params) (d : MdioDraw) (a : MdioAct) (m : Mdioc), d.rst = false →
    let t := m.tick P d a
    let completes := m.mstate = .high ∧ m.cell = 63#6 ∧ m.half.toNat ≤ m.cnt.toNat + 1 ∧ (P.pinFallible && d.pinErr) = false
    let accepted := m.mstate = .idle ∧ m.pinFault = false ∧ ∃ r, a = .request r
    (t.done = true ↔ completes ∨ (m.done = true ∧ ¬ ∃ v, a = .status v ∧ v.getLsbD 1 = true)) ∧
    (t.cmdErr = true ↔
      (a.isCommand = true ∧ ¬ accepted) ∨ (m.cmdErr = true ∧ ¬ ∃ v, a = .status v ∧ v.getLsbD 2 = true)) ∧
    (t.pinFault = true ↔ m.pinFault = true ∨ (m.mstate ≠ .idle ∧ (P.pinFallible && d.pinErr) = true))

/-- R28, R114: a write to MDIO_DIV stores the greater of its low half-word and MIN_DIV, which reads back with the upper half 0;
nothing else of the tick changes, the running transaction's half-cell length among it. No tick without a DIV write or reset changes
MDIO_DIV, so the next accepted command, however many such ticks later and whatever was running, latches the new value. At reset it
reads DIV_RESET. -/
def Obligations.DivWriteIsClampedAndDeferred : Prop :=
  ∀ (P : Params) (d : MdioDraw) (v : Word) (m : Mdioc), P.wf → d.rst = false →
    (m.tick P d (.div v)).div.toNat = max (v.toNat % 65536) P.ticksPerUnit ∧
    ((m.tick P d (.div v)).hostRead .div).toNat = max (v.toNat % 65536) P.ticksPerUnit ∧
    m.tick P d (.div v) = { m.tick P d .none with div := (m.tick P d (.div v)).div } ∧
    (m.tick P d (.div v)).half = m.half ∧
    (∀ a, (∀ w, a ≠ .div w) → (m.tick P d a).div = m.div) ∧
    (∀ (ins : List (MdioDraw × MdioAct)) (d' : MdioDraw) (r : Request),
      (∀ i ∈ ins, i.1.rst = false ∧ ∀ w, i.2 ≠ .div w) →
      let t := Mdioc.run P ins (m.tick P d (.div v))
      d'.rst = false → t.mstate = .idle → t.pinFault = false →
      (t.tick P d' (.request r)).half.toNat = max (v.toNat % 65536) P.ticksPerUnit) ∧
    ((Mdioc.reset P).hostRead .div).toNat = P.ticksPerUnit

/-- R182: a pin failure in a busy tick cuts the transaction short, releases the line and sets PIN_FAULT, leaving `mdc`, the driven
level, `rdata` and (unless the host clears it in that tick) `done`; in an IDLE tick, or where the pin layer cannot fail, it has
no effect; PIN_FAULT then stays until reset and every command is rejected. -/
def Obligations.PinFaultAbortsTransaction : Prop :=
  (∀ (P : Params) (d : MdioDraw) (a : MdioAct) (m : Mdioc),
    d.rst = false → m.mstate ≠ .idle → P.pinFallible = true → d.pinErr = true →
    let t := m.tick P d a
    t.pinFault = true ∧ t.mstate = .idle ∧ t.cell = 0#6 ∧ t.cnt = 0#16 ∧ t.mdioRole = .inp ∧
    t.mdc = m.mdc ∧ t.mdioO = m.mdioO ∧ t.rdata = m.rdata ∧ t.rx = m.rx ∧
    ((∀ v, a ≠ .status v) → t.done = m.done)) ∧
  (∀ (P : Params) (d : MdioDraw) (a : MdioAct) (m : Mdioc), (m.mstate = .idle ∨ P.pinFallible = false) →
    m.tick P d a = m.tick P { d with pinErr := false } a) ∧
  (∀ (P : Params) (d : MdioDraw) (a : MdioAct) (m : Mdioc), d.rst = false → m.pinFault = true →
    (m.tick P d a).pinFault = true ∧
    (m.mstate = .idle → a.isCommand = true → m.tick P d a = { m with cmdErr := true }))

/-- R118, which the spec derives from R103 and R112: the line's role changes only at the start of cell 0 (to OUT), at the start of cell 46 of a read, at a pin-fault abort
and at reset (to IN), and at each of these it is so. The premise is the block's invariant. -/
def Obligations.RoleSwitchesOnlyAtFrameBoundaries : Prop :=
  ∀ (P : Params) (d : MdioDraw) (a : MdioAct) (m : Mdioc), m.Inv P →
    let t := m.tick P d a
    (t.mdioRole ≠ m.mdioRole →
      d.rst = true ∨
      (m.mstate = .idle ∧ t.mstate = .low ∧ t.cell = 0#6) ∨
      (m.mstate = .high ∧ m.op = .rd ∧ m.cell = 45#6 ∧ t.mstate = .low ∧ t.cell = 46#6) ∨
      (m.mstate ≠ .idle ∧ (P.pinFallible && d.pinErr) = true)) ∧
    (d.rst = true → t.mdioRole = .inp) ∧
    (d.rst = false → m.mstate = .idle → t.mstate = .low → t.mdioRole = .out) ∧
    (d.rst = false → m.mstate = .high → m.op = .rd → t.mstate = .low → t.cell = 46#6 → t.mdioRole = .inp) ∧
    (d.rst = false → m.mstate ≠ .idle → (P.pinFallible && d.pinErr) = true → t.mdioRole = .inp)

/-- R112: what the lines are left at by a transaction that completes, and that they stay so in every IDLE tick that accepts
nothing (without a host access the whole block does); from reset, MDC is 0 and the line is released; every transaction drives the line
in its first cell. -/
def Obligations.LinesKeepTheirLevelsBetweenTransactions : Prop :=
  (∀ (P : Params) (d : MdioDraw) (a : MdioAct) (m : Mdioc), m.Inv P → d.quiet P → m.mstate ≠ .idle →
    let t := m.tick P d a
    t.mstate = .idle →
    t.mdc = true ∧ (m.op = .wr → t.mdioRole = .out ∧ t.mdioO = m.wdata.getLsbD 0) ∧ (m.op = .rd → t.mdioRole = .inp)) ∧
  (∀ (P : Params) (d : MdioDraw) (a : MdioAct) (m : Mdioc), d.rst = false → m.mstate = .idle →
    let t := m.tick P d a
    (t.mstate = .idle → t.mdc = m.mdc ∧ t.mdioRole = m.mdioRole ∧ t.mdioO = m.mdioO) ∧
    (t.mstate ≠ .idle → t.mdioRole = .out ∧ t.cell = 0#6) ∧
    (a = .none → t = m)) ∧
  (∀ P : Params, (Mdioc.reset P).mdc = false ∧ (Mdioc.reset P).mdioRole = .inp)

/-- R45: the reset state of MDIOC, and what its registers read at reset. -/
def Obligations.MdiocResetState : Prop :=
  ∀ P : Params, P.wf →
    (let m := Mdioc.reset P
     m.mstate = .idle ∧ m.cell = 0#6 ∧ m.cnt = 0#16 ∧ m.op = .rd ∧ m.phy = 0#5 ∧ m.reg = 0#5 ∧ m.wdata = 0#16 ∧
     m.half = 0#16 ∧ m.rx = 0#16 ∧ m.rdata = 0#16 ∧ m.div.toNat = P.ticksPerUnit ∧ m.done = false ∧ m.cmdErr = false ∧
     m.pinFault = false ∧ m.mdc = false ∧ m.mdioRole = .inp ∧ m.mdioO = true ∧
     m.hostRead .cmd = 0x00000000#32 ∧ m.hostRead .status = 0x00000050#32 ∧ m.hostRead .rdata = 0x00000000#32 ∧
     (m.hostRead .div).toNat = P.ticksPerUnit)

/-- R109: the level the PHY gives the line reaches `rx` and `rdata` and nothing else, so no level of it, in the turnaround or in
the data, is ever recorded as an error: two runs that differ only in that level differ only there. -/
def Obligations.LineLevelReachesOnlyReadData : Prop :=
  ∀ (P : Params) (ins : List (MdioDraw × MdioAct)) (levels : List Bool) (m : Mdioc), ins.length = levels.length →
    ∃ rx rdata,
      Mdioc.run P ((ins.zip levels).map fun e => ({ e.1.1 with line := e.2 }, e.1.2)) m =
        { Mdioc.run P ins m with rx := rx, rdata := rdata }

/-- R26: the fields of MDIO_STATUS as the host reads them. -/
def Obligations.MdioStatusShowsItsFields : Prop :=
  ∀ m : Mdioc,
    let w := m.hostRead .status
    w.getLsbD 0 = decide (m.mstate ≠ .idle) ∧ w.getLsbD 1 = m.done ∧ w.getLsbD 2 = m.cmdErr ∧ w.getLsbD 3 = m.pinFault ∧
    w.getLsbD 4 = decide (m.mdioRole = .inp) ∧ w.getLsbD 5 = m.mdc ∧ w.getLsbD 6 = m.mdioO ∧ w.getLsbD 7 = false ∧
    w.extractLsb' 8 6 = (if m.mstate ≠ .idle then m.cell else 0#6) ∧ w.extractLsb' 14 18 = 0#18

/-! ## CLKSEQ -/

/-- CLKSEQ.START completes: from IDLE, in a tick without reset, the stage becomes XOSC (and BUSY reads 1), and nothing else
changes but the inputs the tick takes; in any other stage it has no effect: the tick is the tick without it (R140, R157). Without it
IDLE stays as it is (R160), and a CLK_CTRL write with bit 0 = 0 is a tick without it (R32, R90). -/
def Obligations.StartBeginsSequenceOnlyFromIdle : Prop :=
  (∀ (s : State) (x : BitVec 31), s.env.nextSeq.rst = false →
    (s.clkseq.stage = .idle →
      exec (.clkseqStart x) s =
        .next { s with clkseq := { s.clkseq with stage := .xosc }, env := s.env.popSeq } ∧
      ({ s.clkseq with stage := .xosc } : Clkseq).busy = true) ∧
    (s.clkseq.stage ≠ .idle →
      exec (.clkseqStart x) s =
        .next { s with clkseq := s.clkseq.tick Config.params s.env.seqDraw .none, env := s.env.popSeq })) ∧
  (∀ (P : Params) (d : SeqDraw) (c : Clkseq), d.rst = false → c.stage = .idle → c.tick P d .none = c) ∧
  (∀ (s : State) (w : Word) (rest : List HostOp), s.writesNext .clkseq 0x00 w rest → w.getLsbD 0 = false →
    step s = .next (tickClkseq .none (s.moved rest)))

/-- R142: stage XOSC. -/
def Obligations.OscillatorStage : Prop :=
  ∀ (P : Params) (d : SeqDraw) (a : SeqAct) (c : Clkseq), d.rst = false → c.stage = .xosc →
    let t := c.tick P d a
    (c.plan.fxosc = 0#32 → t = { c with err := some .oscillatorStartFailed, stage := .failed }) ∧
    (c.plan.fxosc ≠ 0#32 → d.answer = .none → t = c) ∧
    (c.plan.fxosc ≠ 0#32 → d.answer = .ok → t = { c with freqXosc := c.plan.fxosc, stage := .wdt }) ∧
    (c.plan.fxosc ≠ 0#32 → d.answer = .fail → t = { c with err := some .oscillatorStartFailed, stage := .failed })

/-- R143: stage WDT takes one tick and never fails; after it the tick generator ticks at exactly 1 MHz when `wdt_ok = 1`, and not
when `wdt_ok = 0`. -/
def Obligations.WatchdogStage : Prop :=
  ∀ (P : Params) (d : SeqDraw) (a : SeqAct) (c : Clkseq), d.rst = false → c.stage = .wdt →
    ∃ div ok,
      c.tick P d a = { c with wdtDiv := div, wdtOk := ok, stage := .pllSys } ∧
      div.toNat = c.plan.fxosc.toNat / 1000000 ∧
      (ok = true ↔ c.plan.fxosc.toNat % 1000000 = 0 ∧ 1000000 ≤ c.plan.fxosc.toNat) ∧
      ∀ n, (c.tick P d a).wdtHz n = 1000000 ↔ ok = true

/-- R144, R145: stage PLL_SYS, its legality check before the answer, and the exact output frequency. -/
def Obligations.SystemPllStage : Prop :=
  ∀ (P : Params) (d : SeqDraw) (a : SeqAct) (c : Clkseq), d.rst = false → c.stage = .pllSys →
    let t := c.tick P d a
    let fref := c.plan.fxosc.toNat
    let vco := c.plan.sysVco.toNat
    let refdiv := c.plan.sysDiv.refdiv.toNat
    let pd1 := c.plan.sysDiv.pd1.toNat
    let pd2 := c.plan.sysDiv.pd2.toNat
    let legal := 1 ≤ refdiv ∧ 1 ≤ pd1 ∧ 1 ≤ pd2 ∧ 1 ≤ vco ∧ vco * refdiv % fref = 0 ∧ 1 ≤ vco * refdiv / fref ∧
      P.pllExtraLegal fref refdiv (vco * refdiv / fref) vco pd1 pd2 = true
    (¬ legal → t = { c with err := some .systemPllFailed, stage := .failed }) ∧
    (legal → d.answer = .none → t = c) ∧
    (legal → d.answer = .ok → ∃ fout : Word, fout.toNat = vco / (pd1 * pd2) ∧
      t = { c with freqPllSys := fout, stage := .pllUsb }) ∧
    (legal → d.answer = .fail → t = { c with err := some .systemPllFailed, stage := .failed })

/-- R144, R146: stage PLL_USB, with the USB registers. -/
def Obligations.UsbPllStage : Prop :=
  ∀ (P : Params) (d : SeqDraw) (a : SeqAct) (c : Clkseq), d.rst = false → c.stage = .pllUsb →
    let t := c.tick P d a
    let fref := c.plan.fxosc.toNat
    let vco := c.plan.usbVco.toNat
    let refdiv := c.plan.usbDiv.refdiv.toNat
    let pd1 := c.plan.usbDiv.pd1.toNat
    let pd2 := c.plan.usbDiv.pd2.toNat
    let legal := 1 ≤ refdiv ∧ 1 ≤ pd1 ∧ 1 ≤ pd2 ∧ 1 ≤ vco ∧ vco * refdiv % fref = 0 ∧ 1 ≤ vco * refdiv / fref ∧
      P.pllExtraLegal fref refdiv (vco * refdiv / fref) vco pd1 pd2 = true
    (¬ legal → t = { c with err := some .usbPllFailed, stage := .failed }) ∧
    (legal → d.answer = .none → t = c) ∧
    (legal → d.answer = .ok → ∃ fout : Word, fout.toNat = vco / (pd1 * pd2) ∧
      t = { c with freqPllUsb := fout, stage := .clk .ref }) ∧
    (legal → d.answer = .fail → t = { c with err := some .usbPllFailed, stage := .failed })

/-- R147, R148, R149: the seven derived stages, each from its hardwired source. -/
def Obligations.DerivedClockStages : Prop :=
  ∀ (P : Params) (d : SeqDraw) (a : SeqAct) (c : Clkseq) (k : DClk), d.rst = false → c.stage = .clk k →
    let t := c.tick P d a
    let src := (match k with
      | .ref => c.freqXosc
      | .sys => c.freqPllSys
      | .usb | .adc | .rtc => c.freqPllUsb
      | .peri | .gpout => c.freqClk.sys).toNat
    let T := (perClkGet c.plan.target k).toNat
    let after : Stage := (match k with
      | .ref => .clk .sys
      | .sys => .clk .usb
      | .usb => .clk .adc
      | .adc => .clk .rtc
      | .rtc => .clk .peri
      | .peri => .clk .gpout
      | .gpout => .done)
    let legal := 1 ≤ T ∧ T ≤ src
    (¬ legal → t = { c with err := some (.derivedClockFailed k), stage := .failed }) ∧
    (legal → d.answer = .none → t = c) ∧
    (legal → d.answer = .ok → ∃ f : Word, f.toNat = src / ((src + T - 1) / T) ∧
      t = { c with freqClk := perClkSet c.freqClk k f, stage := after }) ∧
    (legal → d.answer = .fail → t = { c with err := some (.derivedClockFailed k), stage := .failed })

/-- R141: without reset, a stage stays, goes to its successor, or (every stage but WDT, and only a running one) to FAILED. IDLE is
left only for XOSC and only when START is presented, and DONE and FAILED never. -/
def Obligations.StagesRunInOrder : Prop :=
  ∀ (P : Params) (d : SeqDraw) (a : SeqAct) (c : Clkseq), d.rst = false →
    let t := c.tick P d a
    (t.stage = c.stage ∨ (c.stage.number ≤ 11 ∧ t.stage.number = c.stage.number + 1) ∨
      (t.stage = .failed ∧ 1 ≤ c.stage.number ∧ c.stage.number ≤ 11 ∧ c.stage ≠ .wdt)) ∧
    (c.stage = .wdt → t.stage = .pllSys) ∧
    (c.stage = .idle → t.stage = if a = .start then .xosc else .idle)

/-- R156, R184: the tick in which a stage fails records that stage's code and changes nothing else; FAILED is then terminal: no run
without reset changes anything, so no later stage runs. In a state that meets the invariant every frequency of a stage that had
not succeeded is then 0. -/
def Obligations.FailureStopsAtTheFailedStage : Prop :=
  (∀ (P : Params) (d : SeqDraw) (a : SeqAct) (c : Clkseq), d.rst = false → c.stage ≠ .failed →
    (c.tick P d a).stage = .failed →
    ∃ e, c.tick P d a = { c with err := some e, stage := .failed } ∧
      (c.stage = .xosc → e.code = 1) ∧ (c.stage = .pllSys → e.code = 2) ∧ (c.stage = .pllUsb → e.code = 3) ∧
      (∀ k, c.stage = .clk k → e.code = 4 + clkIndex k) ∧
      (c.Inv P → (c.stage.number ≤ 1 → c.freqXosc = 0#32) ∧ (c.stage.number ≤ 3 → c.freqPllSys = 0#32) ∧
        (c.stage.number ≤ 4 → c.freqPllUsb = 0#32) ∧
        ∀ k, c.stage.number ≤ 5 + clkIndex k → perClkGet c.freqClk k = 0#32)) ∧
  (∀ (P : Params) (ins : List (SeqDraw × SeqAct)) (c : Clkseq), (∀ i ∈ ins, i.1.rst = false) → c.stage = .failed →
    Clkseq.run P ins c = c)

/-- R157: without reset, DONE and FAILED are terminal whatever the host writes, once the sequence has left IDLE it never comes back,
and START outside IDLE does nothing: the sequence runs at most once. -/
def Obligations.SequenceRunsAtMostOnce : Prop :=
  ∀ (P : Params) (ins : List (SeqDraw × SeqAct)) (c : Clkseq), (∀ i ∈ ins, i.1.rst = false) →
    (c.stage = .done ∨ c.stage = .failed → Clkseq.run P ins c = c) ∧
    (c.stage ≠ .idle → (Clkseq.run P ins c).stage ≠ .idle) ∧
    (c.stage ≠ .idle → ∀ d, c.tick P d .start = c.tick P d .none)

/-- R40: a plan write takes effect only while IDLE; in any other stage it is ignored and sets no flag, and no tick without reset
changes the plan. What it stores reads back (the reserved bits of the divider registers as 0), and every other plan register
keeps its value. -/
def Obligations.PlanIsFrozenAfterStart : Prop :=
  ∀ (P : Params) (d : SeqDraw) (c : Clkseq) (r : PlanReg) (v : Word), d.rst = false →
    (c.stage ≠ .idle → c.tick P d (.plan r v) = c.tick P d .none ∧ ∀ a, (c.tick P d a).plan = c.plan) ∧
    (c.stage = .idle →
      let t := c.tick P d (.plan r v)
      t = { c with plan := t.plan } ∧
      t.hostRead (.plan r) = (if r = .sysDiv ∨ r = .usbDiv then v &&& 0x0000FFFF#32 else v) ∧
      ∀ r', r' ≠ r → t.hostRead (.plan r') = c.hostRead (.plan r'))

/-- R159, which the spec derives from the stages' rules: with every answer `ok` at its first tick and no reset, stage s is held s - 1 ticks after XOSC and DONE 11 ticks after it, if
the plan passes every stage's legality check; if it does not, each stage still takes one tick until the check that fails, and FAILED
holds after eleven ticks. -/
def Obligations.ShortestRunTakesOneTickAStage : Prop :=
  ∀ (P : Params) (ins : List (SeqDraw × SeqAct)) (c : Clkseq),
    (∀ i ∈ ins, i.1.rst = false ∧ i.1.answer = .ok) → c.stage = .xosc → ins.length ≤ 11 →
    (Plan.Legal P c.plan → (Clkseq.run P ins c).stage.number = 1 + ins.length) ∧
    (¬ Plan.Legal P c.plan → ins.length = 11 → (Clkseq.run P ins c).stage = .failed) ∧
    ((Clkseq.run P ins c).stage = .failed ∨ (Clkseq.run P ins c).stage.number = 1 + ins.length)

/-- 95_test_vectors.md K1 and W1 (R140, R145, R146, R150 to R155): from reset with the reference plan, and no legality limit of the
part, START and eleven `ok` ticks give DONE with exactly these frequencies. The plan is that of R7; its PLL USB dividers are
"from general knowledge, not in source" (93_implementation_defined.md G1; log 5). -/
def Obligations.ReferencePlanFrequencies : Prop :=
  ∀ P : Params, P.resetPlan = Config.resetPlan → (∀ fref refdiv fbdiv vco pd1 pd2, P.pllExtraLegal fref refdiv fbdiv vco pd1 pd2 = true) →
    let t := Clkseq.run P (({ rst := false, answer := .none }, .start) ::
      List.replicate 11 ({ rst := false, answer := .ok }, .none)) (Clkseq.reset P)
    t.hostRead .status = 0x000000AC#32 ∧ t.hostRead .wdtDiv = 12#32 ∧
    t.hostRead .freqXosc = 12000000#32 ∧ t.hostRead .freqPllSys = 100000000#32 ∧ t.hostRead .freqPllUsb = 48000000#32 ∧
    t.hostRead (.freq .ref) = 12000000#32 ∧ t.hostRead (.freq .sys) = 100000000#32 ∧
    t.hostRead (.freq .usb) = 48000000#32 ∧ t.hostRead (.freq .adc) = 48000000#32 ∧
    t.hostRead (.freq .rtc) = 46875#32 ∧ t.hostRead (.freq .peri) = 100000000#32 ∧
    t.hostRead (.freq .gpout) = 100000000#32

/-- R39: each CLK_FREQ_* register is written once, by its own stage, and then keeps its value until reset. The premise is the
block's invariant. -/
def Obligations.RealizedFrequencyIsWrittenOnce : Prop :=
  ∀ (P : Params) (d : SeqDraw) (a : SeqAct) (c : Clkseq), d.rst = false → c.Inv P →
    let t := c.tick P d a
    (t.freqXosc ≠ c.freqXosc → c.freqXosc = 0#32 ∧ c.stage = .xosc ∧ t.stage = .wdt) ∧
    (t.freqPllSys ≠ c.freqPllSys → c.freqPllSys = 0#32 ∧ c.stage = .pllSys ∧ t.stage = .pllUsb) ∧
    (t.freqPllUsb ≠ c.freqPllUsb → c.freqPllUsb = 0#32 ∧ c.stage = .pllUsb ∧ t.stage = .clk .ref) ∧
    (∀ k, perClkGet t.freqClk k ≠ perClkGet c.freqClk k →
      perClkGet c.freqClk k = 0#32 ∧ c.stage = .clk k ∧ t.stage.number = c.stage.number + 1)

/-- R147: a derived clock never runs faster than its target; it runs at the target when that divides the source; and the divider is
the least integer whose exact quotient does not exceed the target (90_conflicts.md C7). -/
def Obligations.DerivedClockNeverAboveTarget : Prop :=
  ∀ src T : Word, clkLegal src T = true →
    (clkFreq src T).toNat ≤ T.toNat ∧ 1 ≤ (clkFreq src T).toNat ∧
    (T.toNat ∣ src.toNat → clkFreq src T = T) ∧
    (∀ D : Nat, 1 ≤ D → (src.toNat ≤ D * T.toNat ↔ ceilDiv src.toNat T.toNat ≤ D))

/-- R46: the reset state of CLKSEQ: IDLE, no error, every realized frequency 0, and the plan registers at the values of R34 to R37,
of which the PLL USB ones are "from general knowledge, not in source" (93_implementation_defined.md G1; log 5). -/
def Obligations.ClkseqResetState : Prop :=
  let c := Clkseq.reset Config.params
  c.stage = .idle ∧ errCode c.err = 0 ∧ c.wdtOk = false ∧ c.wdtDiv = 0#16 ∧
  c.hostRead .ctrl = 0#32 ∧ c.hostRead .status = 0x00000000#32 ∧ c.hostRead .wdtDiv = 0#32 ∧
  c.hostRead (.plan .xoscFreq) = 12000000#32 ∧
  c.hostRead (.plan .sysVco) = 1500000000#32 ∧ c.hostRead (.plan .sysDiv) = 0x00003501#32 ∧
  c.hostRead (.plan .usbVco) = 480000000#32 ∧ c.hostRead (.plan .usbDiv) = 0x00002501#32 ∧
  c.hostRead (.plan (.target .ref)) = 12000000#32 ∧ c.hostRead (.plan (.target .sys)) = 100000000#32 ∧
  c.hostRead (.plan (.target .usb)) = 48000000#32 ∧ c.hostRead (.plan (.target .adc)) = 48000000#32 ∧
  c.hostRead (.plan (.target .rtc)) = 46875#32 ∧ c.hostRead (.plan (.target .peri)) = 100000000#32 ∧
  c.hostRead (.plan (.target .gpout)) = 100000000#32 ∧
  c.hostRead .freqXosc = 0#32 ∧ c.hostRead .freqPllSys = 0#32 ∧ c.hostRead .freqPllUsb = 0#32 ∧
  ∀ k, c.hostRead (.freq k) = 0#32

/-- R197, R143: in a state that meets the invariant with WDT_OK = 1 the watchdog tick generator ticks at FXOSC / wdt_div, which is
exactly 1 MHz. With WDT_OK = 0, once programmed, it does not tick at exactly 1 MHz; that nothing else is said of it there, where R197
names FXOSC / wdt_div for wdt_div >= 1 and 93_implementation_defined.md U9 says any value, is the model's choice (log 10), and R197's
quotient is never exactly 1 MHz there either. -/
def Obligations.WatchdogTicksAtOneMegahertz : Prop :=
  ∀ (P : Params) (n : Nat) (c : Clkseq),
    (c.Inv P → c.wdtOk = true →
      c.wdtHz n = (c.plan.fxosc.toNat : ℚ) / (c.wdtDiv.toNat : ℚ) ∧ c.wdtHz n = 1000000) ∧
    (c.wdtProgrammed = true → c.wdtOk = false → c.wdtHz n ≠ 1000000) ∧
    (c.Inv P → c.wdtOk = false → 1 ≤ c.wdtDiv.toNat → (c.plan.fxosc.toNat : ℚ) / (c.wdtDiv.toNat : ℚ) ≠ 1000000)

/-- R33: the fields of CLK_STATUS as the host reads them. -/
def Obligations.ClkStatusShowsItsFields : Prop :=
  ∀ c : Clkseq,
    let w := c.hostRead .status
    (w.extractLsb' 0 4).toNat = c.stage.number ∧
    w.getLsbD 4 = decide (1 ≤ c.stage.number ∧ c.stage.number ≤ 11) ∧ w.getLsbD 5 = decide (c.stage = .done) ∧
    w.getLsbD 6 = decide (c.stage = .failed) ∧ w.getLsbD 7 = c.wdtOk ∧
    (w.extractLsb' 8 4).toNat = errCode c.err ∧ w.extractLsb' 12 20 = 0#20

/-! ## The host's side -/

/-- R60: an access to a window that is not 32 bits wide at a multiple of 4 below 0x100 has no step, be it a write, a read or a WAIT,
by offset or by an address in a window, whichever block it names and whichever clock is next. -/
def Obligations.UnadmittedAccessIsRefused : Prop :=
  ∀ (s : State) (op : HostOp) (t : Target) (width : Nat) (rest : List HostOp), s.host.todo = op :: rest →
    ((∃ v, op = .wr t width v) ∨ (∃ dst, op = .rd dst t width) ∨ (width = 32 ∧ ∃ hi lo v, op = .wait t hi lo v)) →
    (∀ blk off, t = .reg blk off → (width ≠ 32 ∨ off % 4 ≠ 0 ∨ 0x100 ≤ off) → step s = .refused .unadmittedAccess) ∧
    (∀ addr, t = .mem addr →
      (∃ o < 0x100, addr = Config.params.mdiocBase + o ∨ addr = Config.params.clkseqBase + o) →
      (width ≠ 32 ∨ addr % 4 ≠ 0) → step s = .refused .unadmittedAccess)

/-- R61: an unmapped offset of either window reads 0, and a write to it changes no state: the step is the tick the block would have
made without it. -/
def Obligations.UnmappedOffsetsReadZeroIgnoreWrites : Prop :=
  ∀ (s : State) (off : Nat) (v : Word) (rest : List HostOp), off % 4 = 0 → off < 0x100 →
    (0x0C < off →
      regRead s .mdioc off = 0#32 ∧
      (s.writesNext .mdioc off v rest → step s = .next (tickMdioc .none (s.moved rest)))) ∧
    (0x60 < off →
      regRead s .clkseq off = 0#32 ∧
      (s.writesNext .clkseq off v rest → step s = .next (tickClkseq .none (s.moved rest))))

/-- R24, R31, R63: the register at each mapped offset, as the host reads it, with its value in every state (R25, R27, R28, R32, R34 to
R39; the status registers' fields are MdioStatusShowsItsFields and ClkStatusShowsItsFields), and what a step with the host's write to it is: the
tick with that register's act, and for a read-only register (R27, R33, R38, R39) the tick without the write. MDIO_CMD's write and
CLK_CTRL's with bit 0 = 1 are instructions; CLK_CTRL's with bit 0 = 0 is the tick without it (R32). -/
def Obligations.RegistersStandAtTheirOffsets : Prop :=
  ∀ (s : State) (v : Word) (rest : List HostOp),
    (∀ e ∈ ([(0x00, .cmd), (0x04, .status), (0x08, .rdata), (0x0C, .div)] : List (Nat × MdioReg)),
      regRead s .mdioc e.1 = s.mdioc.hostRead e.2) ∧
    (∀ e ∈ ([(0x00, .ctrl), (0x04, .status), (0x08, .plan .xoscFreq), (0x0C, .plan .sysVco), (0x10, .plan .sysDiv),
        (0x14, .plan .usbVco), (0x18, .plan .usbDiv), (0x1C, .plan (.target .ref)), (0x20, .plan (.target .sys)),
        (0x24, .plan (.target .usb)), (0x28, .plan (.target .adc)), (0x2C, .plan (.target .rtc)),
        (0x30, .plan (.target .peri)), (0x34, .plan (.target .gpout)), (0x38, .wdtDiv), (0x3C, .freqXosc),
        (0x40, .freqPllSys), (0x44, .freqPllUsb), (0x48, .freq .ref), (0x4C, .freq .sys), (0x50, .freq .usb),
        (0x54, .freq .adc), (0x58, .freq .rtc), (0x5C, .freq .peri), (0x60, .freq .gpout)] : List (Nat × ClkReg)),
      regRead s .clkseq e.1 = s.clkseq.hostRead e.2) ∧
    (regRead s .mdioc 0x00 = 0#32 ∧ regRead s .clkseq 0x00 = 0#32) ∧
    (∀ e ∈ [(regRead s .mdioc 0x08, s.mdioc.rdata), (regRead s .mdioc 0x0C, s.mdioc.div),
        (regRead s .clkseq 0x38, s.clkseq.wdtDiv)],
      e.1.extractLsb' 0 16 = e.2 ∧ e.1.extractLsb' 16 16 = 0#16) ∧
    (∀ e ∈ [(regRead s .clkseq 0x10, s.clkseq.plan.sysDiv), (regRead s .clkseq 0x18, s.clkseq.plan.usbDiv)],
      e.1.extractLsb' 0 8 = e.2.refdiv ∧ e.1.extractLsb' 8 4 = e.2.pd1 ∧ e.1.extractLsb' 12 4 = e.2.pd2 ∧
        e.1.extractLsb' 16 16 = 0#16) ∧
    (let c := s.clkseq
     ∀ e ∈ [(0x08, c.plan.fxosc), (0x0C, c.plan.sysVco), (0x14, c.plan.usbVco), (0x1C, c.plan.target.ref),
        (0x20, c.plan.target.sys), (0x24, c.plan.target.usb), (0x28, c.plan.target.adc), (0x2C, c.plan.target.rtc),
        (0x30, c.plan.target.peri), (0x34, c.plan.target.gpout), (0x3C, c.freqXosc), (0x40, c.freqPllSys),
        (0x44, c.freqPllUsb), (0x48, c.freqClk.ref), (0x4C, c.freqClk.sys), (0x50, c.freqClk.usb), (0x54, c.freqClk.adc),
        (0x58, c.freqClk.rtc), (0x5C, c.freqClk.peri), (0x60, c.freqClk.gpout)],
      regRead s .clkseq e.1 = e.2) ∧
    (∀ e ∈ ([(0x04, .status v), (0x08, .none), (0x0C, .div v)] : List (Nat × MdioAct)),
      s.writesNext .mdioc e.1 v rest → step s = .next (tickMdioc e.2 (s.moved rest))) ∧
    (∀ e ∈ ([(0x04, .none), (0x08, .plan .xoscFreq v), (0x0C, .plan .sysVco v), (0x10, .plan .sysDiv v),
        (0x14, .plan .usbVco v), (0x18, .plan .usbDiv v), (0x1C, .plan (.target .ref) v), (0x20, .plan (.target .sys) v),
        (0x24, .plan (.target .usb) v), (0x28, .plan (.target .adc) v), (0x2C, .plan (.target .rtc) v),
        (0x30, .plan (.target .peri) v), (0x34, .plan (.target .gpout) v), (0x38, .none), (0x3C, .none), (0x40, .none),
        (0x44, .none), (0x48, .none), (0x4C, .none), (0x50, .none), (0x54, .none), (0x58, .none), (0x5C, .none),
        (0x60, .none)] : List (Nat × SeqAct)),
      s.writesNext .clkseq e.1 v rest → step s = .next (tickClkseq e.2 (s.moved rest))) ∧
    (v.getLsbD 0 = false → s.writesNext .clkseq 0x00 v rest → step s = .next (tickClkseq .none (s.moved rest)))

/-- R10, R67: in each window the address BASE + offset means the register at that offset; the windows do not overlap; an address in
neither is the platform's (R67), on which the model stops by its own choice (log 9). -/
def Obligations.AddressesNameTheSameRegisters : Prop :=
  ∀ (P : Params) (width off addr : Nat), P.wf →
    (off < 0x100 → route P (.mem (P.mdiocBase + off)) width = route P (.reg .mdioc off) width) ∧
    (off < 0x100 → route P (.mem (P.clkseqBase + off)) width = route P (.reg .clkseq off) width) ∧
    ((∀ o < 0x100, addr ≠ P.mdiocBase + o ∧ addr ≠ P.clkseqBase + o) → route P (.mem addr) width = .fault .platformAddress)

/-- When the host's next write, made in this tick of the block whose window it goes to (the schedule and the host's list are the
model's form of R6, R8 and R70: log 1, log 7), decodes to an instruction at the register it goes to, the step is `exec` of that
instruction at the state in which the schedule and the host have moved on. -/
def Obligations.StepRunsDecodedInstruction : Prop :=
  ∀ (s : State) (w : Word) (i : Instr) (rest : List HostOp),
    (s.writesNext .mdioc 0x00 w rest → decode .mdioCmd w = .instr i → step s = exec i (s.moved rest)) ∧
    (s.writesNext .clkseq 0x00 w rest → decode .clkCtrl w = .instr i → step s = exec i (s.moved rest))

/-- R62, R66: a host read returns the register's value in the state before the tick, into its variable, and has no side effect: the
block makes the tick it would have made without it, and the host's other variables keep their values. The host's
variables are the model's own fields (log 7). -/
def Obligations.HostReadHasNoSideEffect : Prop :=
  ∀ (s : State) (blk : Block) (off dst : Nat) (rest : List HostOp),
    s.host.todo = .rd dst (.reg blk off) 32 :: rest → s.env.nextClock = blk → off % 4 = 0 → off < 0x100 →
    ∃ t, step s = .next t ∧ t.host.todo = rest ∧ getVar dst t.host.vars = some (regRead s blk off) ∧
      (∀ j, j ≠ dst → getVar j t.host.vars = getVar j s.host.vars) ∧
      (blk = .mdioc → t.mdioc = s.mdioc.tick Config.params s.env.mdioDraw .none ∧ t.clkseq = s.clkseq) ∧
      (blk = .clkseq → t.clkseq = s.clkseq.tick Config.params s.env.seqDraw .none ∧ t.mdioc = s.mdioc)

/-- R94: a WAIT on a field of any admitted register goes on to the next operation in the tick whose read finds the value, and
stays where it is in every other; either way the block's tick is the tick without it. One read a tick is the
model's choice (log 7). -/
def Obligations.WaitRepeatsUntilFieldHolds : Prop :=
  ∀ (s : State) (blk : Block) (off hi lo v : Nat) (rest : List HostOp),
    s.host.todo = .wait (.reg blk off) hi lo v :: rest → s.env.nextClock = blk → off % 4 = 0 → off < 0x100 →
    lo ≤ hi → hi < 32 →
    ∃ t, step s = .next t ∧
      t.host.todo = (if (regRead s blk off).toNat / 2 ^ lo % 2 ^ (hi + 1 - lo) = v then rest else s.host.todo) ∧
      t.host.vars = s.host.vars ∧
      (blk = .mdioc → t.mdioc = s.mdioc.tick Config.params s.env.mdioDraw .none ∧ t.clkseq = s.clkseq) ∧
      (blk = .clkseq → t.clkseq = s.clkseq.tick Config.params s.env.seqDraw .none ∧ t.mdioc = s.mdioc)

/-- R180: neither block stops the machine. A step fails to go on only where the host's next operation is an access the windows do not
admit (R60), an address of neither window (log 9), or a WAIT that names no field of a register (log 7). -/
def Obligations.StepStopsOnlyOnTheHostsAccess : Prop :=
  ∀ s : State, ¬ goesOn (step s) →
    ∃ op rest, s.host.todo = op :: rest ∧
      ((∀ blk off, route Config.params (opTarget op) (opWidth op) ≠ .reg blk off) ∨
       ∃ t hi lo v, op = .wait t hi lo v ∧ (hi < lo ∨ 32 ≤ hi))

/-- R95, R93: the pseudo-instructions expand to these accesses, whose command words decode to the instruction meant; an operand out of
range has no expansion (R93's "caller-side range error", U14; log 7). -/
def Obligations.PseudoInstructionsExpand : Prop :=
  ∀ dst phy reg value : Nat,
    (phy < 32 → reg < 32 → ∃ w,
      expand (.mdioRd dst phy reg) = some [.wait (.reg .mdioc 0x04) 0 0 0, .wr (.reg .mdioc 0x00) 32 w,
        .wait (.reg .mdioc 0x04) 0 0 0, .rd dst (.reg .mdioc 0x08) 32, .wr (.reg .mdioc 0x04) 32 0x00000002#32] ∧
      decode .mdioCmd w = .instr (.mdioRead (BitVec.ofNat 5 phy) (BitVec.ofNat 5 reg) 0b00 0)) ∧
    (phy < 32 → reg < 32 → value < 65536 → ∃ w,
      expand (.mdioWr phy reg value) = some [.wait (.reg .mdioc 0x04) 0 0 0, .wr (.reg .mdioc 0x00) 32 w,
        .wait (.reg .mdioc 0x04) 0 0 0, .wr (.reg .mdioc 0x04) 32 0x00000002#32] ∧
      decode .mdioCmd w =
        .instr (.mdioWrite (BitVec.ofNat 5 phy) (BitVec.ofNat 5 reg) 0b10 (BitVec.ofNat 16 value))) ∧
    expand (.clkInit dst) = some [.wr (.reg .clkseq 0x00) 32 0x00000001#32, .wait (.reg .clkseq 0x04) 4 4 0,
      .rd dst (.reg .clkseq 0x04) 32] ∧
    (32 ≤ phy ∨ 32 ≤ reg → expand (.mdioRd dst phy reg) = none ∧ expand (.mdioWr phy reg value) = none) ∧
    (65536 ≤ value → expand (.mdioWr phy reg value) = none)

/-- R8, R71: a step that goes on is one tick, with some host access, of the block whose clock is next, and leaves the other block and
its inputs as they were. Where the host makes no access in it (it has none to make, or its next one is for the block whose clock is
not next) the block still ticks, without an access, and the host's list and variables are kept. Ticks of the two blocks commute, so
the order the schedule gives two ticks of different blocks cannot be seen. The schedule is the model's choice (log 1), and so is the
host that waits for its block's clock. -/
def Obligations.BlocksDoNotInterfere : Prop :=
  (∀ s t : State, step s = .next t →
    (s.env.nextClock = .mdioc →
      (∃ a, t.mdioc = s.mdioc.tick Config.params s.env.mdioDraw a) ∧ t.env = s.env.popClock.popMdio ∧
      t.clkseq = s.clkseq) ∧
    (s.env.nextClock = .clkseq →
      (∃ a, t.clkseq = s.clkseq.tick Config.params s.env.seqDraw a) ∧ t.env = s.env.popClock.popSeq ∧
      t.mdioc = s.mdioc)) ∧
  (∀ s : State,
    (s.host.todo = [] ∨ ∃ op rest blk off, s.host.todo = op :: rest ∧
      route Config.params (opTarget op) (opWidth op) = .reg blk off ∧ blk ≠ s.env.nextClock) →
    (s.env.nextClock = .mdioc →
      step s = .next { s with
        mdioc := s.mdioc.tick Config.params s.env.mdioDraw .none, env := s.env.popClock.popMdio }) ∧
    (s.env.nextClock = .clkseq →
      step s = .next { s with
        clkseq := s.clkseq.tick Config.params s.env.seqDraw .none, env := s.env.popClock.popSeq })) ∧
  (∀ (s : State) (a : MdioAct) (b : SeqAct), tickMdioc a (tickClkseq b s) = tickClkseq b (tickMdioc a s))

/-! ## The whole machine -/

/-- Every step that goes on keeps the machine's invariant: MDIOC's counters, lines and half-cell lengths stay consistent, CLKSEQ's
results stay those its plan gives, and the host's variables stay in their one form (log 7). -/
def Obligations.StepKeepsInvariant : Prop :=
  ∀ s t : State, s.Inv → step s = .next t → t.Inv

/-- The reset state meets the machine's invariant. -/
def Obligations.ResetMeetsInvariant : Prop :=
  State.reset.Inv

/-- R120, which the spec derives from R106, R110, R111 and R119: with the reference PHY of R119 (its receiver: log 13), a write to a present device that completes, followed by a read of the same register that
completes, gives MDIO_RDATA the value written: from any state of MDIOC that can accept a command, any state of the PHY's receiver,
any idle gap, and any host accesses while the transactions run. -/
def Obligations.RoundTripThroughReferencePhy : Prop :=
  ∀ (P : Params) (m : Mdioc) (p : RefPhy) (a r : BitVec 5) (v : BitVec 16) (during1 during2 : List MdioAct) (gap : Nat),
    P.wf → m.mstate = .idle → m.pinFault = false → 1 ≤ m.div.toNat → p.present a = true →
    during1.length = 128 * m.div.toNat →
    let s1 := coRun P (.request (writeRequest a r v) :: during1) (m, p)
    let s2 := coRun P (List.replicate gap .none) s1
    during2.length = 128 * s2.1.div.toNat →
    let s3 := coRun P (.request (readRequest a r) :: during2) s2
    s1.1.mstate = .idle ∧ s1.1.done = true ∧ s3.1.mstate = .idle ∧ s3.1.done = true ∧ s3.1.rdata = v

/-- R109, R119: a read of an address at which no device is present completes with 0xFFFF and records no error (the reference
PHY's receiver: log 13). -/
def Obligations.AbsentDeviceReadsAllOnes : Prop :=
  ∀ (P : Params) (m : Mdioc) (p : RefPhy) (a r : BitVec 5) (gap : Nat),
    P.wf → m.mstate = .idle → m.pinFault = false → 1 ≤ m.div.toNat → p.present a = false →
    gap = 128 * m.div.toNat →
    let s := coRun P (.request (readRequest a r) :: List.replicate gap .none) (m, p)
    s.1.mstate = .idle ∧ s.1.done = true ∧ s.1.rdata = 0xFFFF#16 ∧ s.1.cmdErr = m.cmdErr ∧ s.1.pinFault = false

/-- R196: elapsed time by modular subtraction is correct across one wrap: k ticks after a sample, for every k below 2^MICROS_WIDTH, the
elapsed time is k, and a wait of n units is over exactly when k >= n. -/
def Obligations.ElapsedTimeSurvivesWrap : Prop :=
  ∀ (P : Params) (start : BitVec P.microsWidth) (k n : Nat), k < 2 ^ P.microsWidth →
    elapsed P (start + BitVec.ofNat P.microsWidth k) start = k ∧
    (delayOver P n (start + BitVec.ofNat P.microsWidth k) start = true ↔ n ≤ k)
end

