-- ==== Sys2Proof/Laws/State.lean ====
section
/-! SUPPORT. One lemma per field per named update: an update is never unfolded again. -/

namespace Sys2Proof.Machine


/-! ### Mdioc.reject -/

@[simp] theorem Mdioc.reject_mstate (m : Mdioc) :
    (m.reject).mstate = m.mstate := rfl
@[simp] theorem Mdioc.reject_cell (m : Mdioc) :
    (m.reject).cell = m.cell := rfl
@[simp] theorem Mdioc.reject_cnt (m : Mdioc) :
    (m.reject).cnt = m.cnt := rfl
@[simp] theorem Mdioc.reject_op (m : Mdioc) :
    (m.reject).op = m.op := rfl
@[simp] theorem Mdioc.reject_phy (m : Mdioc) :
    (m.reject).phy = m.phy := rfl
@[simp] theorem Mdioc.reject_reg (m : Mdioc) :
    (m.reject).reg = m.reg := rfl
@[simp] theorem Mdioc.reject_wdata (m : Mdioc) :
    (m.reject).wdata = m.wdata := rfl
@[simp] theorem Mdioc.reject_half (m : Mdioc) :
    (m.reject).half = m.half := rfl
@[simp] theorem Mdioc.reject_rx (m : Mdioc) :
    (m.reject).rx = m.rx := rfl
@[simp] theorem Mdioc.reject_rdata (m : Mdioc) :
    (m.reject).rdata = m.rdata := rfl
@[simp] theorem Mdioc.reject_div (m : Mdioc) :
    (m.reject).div = m.div := rfl
@[simp] theorem Mdioc.reject_done (m : Mdioc) :
    (m.reject).done = m.done := rfl
@[simp] theorem Mdioc.reject_cmdErr (m : Mdioc) :
    (m.reject).cmdErr = true := rfl
@[simp] theorem Mdioc.reject_pinFault (m : Mdioc) :
    (m.reject).pinFault = m.pinFault := rfl
@[simp] theorem Mdioc.reject_mdc (m : Mdioc) :
    (m.reject).mdc = m.mdc := rfl
@[simp] theorem Mdioc.reject_mdioRole (m : Mdioc) :
    (m.reject).mdioRole = m.mdioRole := rfl
@[simp] theorem Mdioc.reject_mdioO (m : Mdioc) :
    (m.reject).mdioO = m.mdioO := rfl

/-! ### Mdioc.pinAbort -/

@[simp] theorem Mdioc.pinAbort_mstate (m : Mdioc) :
    (m.pinAbort).mstate = .idle := rfl
@[simp] theorem Mdioc.pinAbort_cell (m : Mdioc) :
    (m.pinAbort).cell = 0#6 := rfl
@[simp] theorem Mdioc.pinAbort_cnt (m : Mdioc) :
    (m.pinAbort).cnt = 0#16 := rfl
@[simp] theorem Mdioc.pinAbort_op (m : Mdioc) :
    (m.pinAbort).op = m.op := rfl
@[simp] theorem Mdioc.pinAbort_phy (m : Mdioc) :
    (m.pinAbort).phy = m.phy := rfl
@[simp] theorem Mdioc.pinAbort_reg (m : Mdioc) :
    (m.pinAbort).reg = m.reg := rfl
@[simp] theorem Mdioc.pinAbort_wdata (m : Mdioc) :
    (m.pinAbort).wdata = m.wdata := rfl
@[simp] theorem Mdioc.pinAbort_half (m : Mdioc) :
    (m.pinAbort).half = m.half := rfl
@[simp] theorem Mdioc.pinAbort_rx (m : Mdioc) :
    (m.pinAbort).rx = m.rx := rfl
@[simp] theorem Mdioc.pinAbort_rdata (m : Mdioc) :
    (m.pinAbort).rdata = m.rdata := rfl
@[simp] theorem Mdioc.pinAbort_div (m : Mdioc) :
    (m.pinAbort).div = m.div := rfl
@[simp] theorem Mdioc.pinAbort_done (m : Mdioc) :
    (m.pinAbort).done = m.done := rfl
@[simp] theorem Mdioc.pinAbort_cmdErr (m : Mdioc) :
    (m.pinAbort).cmdErr = m.cmdErr := rfl
@[simp] theorem Mdioc.pinAbort_pinFault (m : Mdioc) :
    (m.pinAbort).pinFault = true := rfl
@[simp] theorem Mdioc.pinAbort_mdc (m : Mdioc) :
    (m.pinAbort).mdc = m.mdc := rfl
@[simp] theorem Mdioc.pinAbort_mdioRole (m : Mdioc) :
    (m.pinAbort).mdioRole = .inp := rfl
@[simp] theorem Mdioc.pinAbort_mdioO (m : Mdioc) :
    (m.pinAbort).mdioO = m.mdioO := rfl

/-! ### Mdioc.clearFlags -/

@[simp] theorem Mdioc.clearFlags_mstate (m : Mdioc) (v : Word) :
    (m.clearFlags v).mstate = m.mstate := rfl
@[simp] theorem Mdioc.clearFlags_cell (m : Mdioc) (v : Word) :
    (m.clearFlags v).cell = m.cell := rfl
@[simp] theorem Mdioc.clearFlags_cnt (m : Mdioc) (v : Word) :
    (m.clearFlags v).cnt = m.cnt := rfl
@[simp] theorem Mdioc.clearFlags_op (m : Mdioc) (v : Word) :
    (m.clearFlags v).op = m.op := rfl
@[simp] theorem Mdioc.clearFlags_phy (m : Mdioc) (v : Word) :
    (m.clearFlags v).phy = m.phy := rfl
@[simp] theorem Mdioc.clearFlags_reg (m : Mdioc) (v : Word) :
    (m.clearFlags v).reg = m.reg := rfl
@[simp] theorem Mdioc.clearFlags_wdata (m : Mdioc) (v : Word) :
    (m.clearFlags v).wdata = m.wdata := rfl
@[simp] theorem Mdioc.clearFlags_half (m : Mdioc) (v : Word) :
    (m.clearFlags v).half = m.half := rfl
@[simp] theorem Mdioc.clearFlags_rx (m : Mdioc) (v : Word) :
    (m.clearFlags v).rx = m.rx := rfl
@[simp] theorem Mdioc.clearFlags_rdata (m : Mdioc) (v : Word) :
    (m.clearFlags v).rdata = m.rdata := rfl
@[simp] theorem Mdioc.clearFlags_div (m : Mdioc) (v : Word) :
    (m.clearFlags v).div = m.div := rfl
@[simp] theorem Mdioc.clearFlags_done (m : Mdioc) (v : Word) :
    (m.clearFlags v).done = (m.done && !v.getLsbD 1) := rfl
@[simp] theorem Mdioc.clearFlags_cmdErr (m : Mdioc) (v : Word) :
    (m.clearFlags v).cmdErr = (m.cmdErr && !v.getLsbD 2) := rfl
@[simp] theorem Mdioc.clearFlags_pinFault (m : Mdioc) (v : Word) :
    (m.clearFlags v).pinFault = m.pinFault := rfl
@[simp] theorem Mdioc.clearFlags_mdc (m : Mdioc) (v : Word) :
    (m.clearFlags v).mdc = m.mdc := rfl
@[simp] theorem Mdioc.clearFlags_mdioRole (m : Mdioc) (v : Word) :
    (m.clearFlags v).mdioRole = m.mdioRole := rfl
@[simp] theorem Mdioc.clearFlags_mdioO (m : Mdioc) (v : Word) :
    (m.clearFlags v).mdioO = m.mdioO := rfl

/-! ### Mdioc.writeDiv -/

@[simp] theorem Mdioc.writeDiv_mstate (P : Params) (m : Mdioc) (v : Word) :
    (m.writeDiv P v).mstate = m.mstate := rfl
@[simp] theorem Mdioc.writeDiv_cell (P : Params) (m : Mdioc) (v : Word) :
    (m.writeDiv P v).cell = m.cell := rfl
@[simp] theorem Mdioc.writeDiv_cnt (P : Params) (m : Mdioc) (v : Word) :
    (m.writeDiv P v).cnt = m.cnt := rfl
@[simp] theorem Mdioc.writeDiv_op (P : Params) (m : Mdioc) (v : Word) :
    (m.writeDiv P v).op = m.op := rfl
@[simp] theorem Mdioc.writeDiv_phy (P : Params) (m : Mdioc) (v : Word) :
    (m.writeDiv P v).phy = m.phy := rfl
@[simp] theorem Mdioc.writeDiv_reg (P : Params) (m : Mdioc) (v : Word) :
    (m.writeDiv P v).reg = m.reg := rfl
@[simp] theorem Mdioc.writeDiv_wdata (P : Params) (m : Mdioc) (v : Word) :
    (m.writeDiv P v).wdata = m.wdata := rfl
@[simp] theorem Mdioc.writeDiv_half (P : Params) (m : Mdioc) (v : Word) :
    (m.writeDiv P v).half = m.half := rfl
@[simp] theorem Mdioc.writeDiv_rx (P : Params) (m : Mdioc) (v : Word) :
    (m.writeDiv P v).rx = m.rx := rfl
@[simp] theorem Mdioc.writeDiv_rdata (P : Params) (m : Mdioc) (v : Word) :
    (m.writeDiv P v).rdata = m.rdata := rfl
@[simp] theorem Mdioc.writeDiv_done (P : Params) (m : Mdioc) (v : Word) :
    (m.writeDiv P v).done = m.done := rfl
@[simp] theorem Mdioc.writeDiv_cmdErr (P : Params) (m : Mdioc) (v : Word) :
    (m.writeDiv P v).cmdErr = m.cmdErr := rfl
@[simp] theorem Mdioc.writeDiv_pinFault (P : Params) (m : Mdioc) (v : Word) :
    (m.writeDiv P v).pinFault = m.pinFault := rfl
@[simp] theorem Mdioc.writeDiv_mdc (P : Params) (m : Mdioc) (v : Word) :
    (m.writeDiv P v).mdc = m.mdc := rfl
@[simp] theorem Mdioc.writeDiv_mdioRole (P : Params) (m : Mdioc) (v : Word) :
    (m.writeDiv P v).mdioRole = m.mdioRole := rfl
@[simp] theorem Mdioc.writeDiv_mdioO (P : Params) (m : Mdioc) (v : Word) :
    (m.writeDiv P v).mdioO = m.mdioO := rfl

/-! ### Mdioc.enterCell -/

@[simp] theorem Mdioc.enterCell_mstate (m : Mdioc) (c : BitVec 6) :
    (m.enterCell c).mstate = .low := rfl
@[simp] theorem Mdioc.enterCell_cell (m : Mdioc) (c : BitVec 6) :
    (m.enterCell c).cell = c := rfl
@[simp] theorem Mdioc.enterCell_cnt (m : Mdioc) (c : BitVec 6) :
    (m.enterCell c).cnt = 0#16 := rfl
@[simp] theorem Mdioc.enterCell_op (m : Mdioc) (c : BitVec 6) :
    (m.enterCell c).op = m.op := rfl
@[simp] theorem Mdioc.enterCell_phy (m : Mdioc) (c : BitVec 6) :
    (m.enterCell c).phy = m.phy := rfl
@[simp] theorem Mdioc.enterCell_reg (m : Mdioc) (c : BitVec 6) :
    (m.enterCell c).reg = m.reg := rfl
@[simp] theorem Mdioc.enterCell_wdata (m : Mdioc) (c : BitVec 6) :
    (m.enterCell c).wdata = m.wdata := rfl
@[simp] theorem Mdioc.enterCell_half (m : Mdioc) (c : BitVec 6) :
    (m.enterCell c).half = m.half := rfl
@[simp] theorem Mdioc.enterCell_rx (m : Mdioc) (c : BitVec 6) :
    (m.enterCell c).rx = m.rx := rfl
@[simp] theorem Mdioc.enterCell_rdata (m : Mdioc) (c : BitVec 6) :
    (m.enterCell c).rdata = m.rdata := rfl
@[simp] theorem Mdioc.enterCell_div (m : Mdioc) (c : BitVec 6) :
    (m.enterCell c).div = m.div := rfl
@[simp] theorem Mdioc.enterCell_done (m : Mdioc) (c : BitVec 6) :
    (m.enterCell c).done = m.done := rfl
@[simp] theorem Mdioc.enterCell_cmdErr (m : Mdioc) (c : BitVec 6) :
    (m.enterCell c).cmdErr = m.cmdErr := rfl
@[simp] theorem Mdioc.enterCell_pinFault (m : Mdioc) (c : BitVec 6) :
    (m.enterCell c).pinFault = m.pinFault := rfl
@[simp] theorem Mdioc.enterCell_mdc (m : Mdioc) (c : BitVec 6) :
    (m.enterCell c).mdc = false := rfl
@[simp] theorem Mdioc.enterCell_mdioRole (m : Mdioc) (c : BitVec 6) :
    (m.enterCell c).mdioRole = m.drive c := rfl

/-! ### Mdioc.complete -/

@[simp] theorem Mdioc.complete_mstate (m : Mdioc) :
    (m.complete).mstate = .idle := rfl
@[simp] theorem Mdioc.complete_cell (m : Mdioc) :
    (m.complete).cell = 0#6 := rfl
@[simp] theorem Mdioc.complete_cnt (m : Mdioc) :
    (m.complete).cnt = 0#16 := rfl
@[simp] theorem Mdioc.complete_op (m : Mdioc) :
    (m.complete).op = m.op := rfl
@[simp] theorem Mdioc.complete_phy (m : Mdioc) :
    (m.complete).phy = m.phy := rfl
@[simp] theorem Mdioc.complete_reg (m : Mdioc) :
    (m.complete).reg = m.reg := rfl
@[simp] theorem Mdioc.complete_wdata (m : Mdioc) :
    (m.complete).wdata = m.wdata := rfl
@[simp] theorem Mdioc.complete_half (m : Mdioc) :
    (m.complete).half = m.half := rfl
@[simp] theorem Mdioc.complete_rx (m : Mdioc) :
    (m.complete).rx = m.rx := rfl
@[simp] theorem Mdioc.complete_div (m : Mdioc) :
    (m.complete).div = m.div := rfl
@[simp] theorem Mdioc.complete_done (m : Mdioc) :
    (m.complete).done = true := rfl
@[simp] theorem Mdioc.complete_cmdErr (m : Mdioc) :
    (m.complete).cmdErr = m.cmdErr := rfl
@[simp] theorem Mdioc.complete_pinFault (m : Mdioc) :
    (m.complete).pinFault = m.pinFault := rfl
@[simp] theorem Mdioc.complete_mdc (m : Mdioc) :
    (m.complete).mdc = m.mdc := rfl
@[simp] theorem Mdioc.complete_mdioRole (m : Mdioc) :
    (m.complete).mdioRole = m.mdioRole := rfl
@[simp] theorem Mdioc.complete_mdioO (m : Mdioc) :
    (m.complete).mdioO = m.mdioO := rfl

/-! ### Mdioc.accept -/

@[simp] theorem Mdioc.accept_mstate (m : Mdioc) (r : Request) :
    (m.accept r).mstate = .low := rfl
@[simp] theorem Mdioc.accept_cell (m : Mdioc) (r : Request) :
    (m.accept r).cell = 0#6 := rfl
@[simp] theorem Mdioc.accept_cnt (m : Mdioc) (r : Request) :
    (m.accept r).cnt = 0#16 := rfl
@[simp] theorem Mdioc.accept_op (m : Mdioc) (r : Request) :
    (m.accept r).op = r.op := rfl
@[simp] theorem Mdioc.accept_phy (m : Mdioc) (r : Request) :
    (m.accept r).phy = r.phy := rfl
@[simp] theorem Mdioc.accept_reg (m : Mdioc) (r : Request) :
    (m.accept r).reg = r.reg := rfl
@[simp] theorem Mdioc.accept_half (m : Mdioc) (r : Request) :
    (m.accept r).half = m.div := rfl
@[simp] theorem Mdioc.accept_rx (m : Mdioc) (r : Request) :
    (m.accept r).rx = 0#16 := rfl
@[simp] theorem Mdioc.accept_rdata (m : Mdioc) (r : Request) :
    (m.accept r).rdata = m.rdata := rfl
@[simp] theorem Mdioc.accept_div (m : Mdioc) (r : Request) :
    (m.accept r).div = m.div := rfl
@[simp] theorem Mdioc.accept_done (m : Mdioc) (r : Request) :
    (m.accept r).done = m.done := rfl
@[simp] theorem Mdioc.accept_cmdErr (m : Mdioc) (r : Request) :
    (m.accept r).cmdErr = m.cmdErr := rfl
@[simp] theorem Mdioc.accept_pinFault (m : Mdioc) (r : Request) :
    (m.accept r).pinFault = m.pinFault := rfl
@[simp] theorem Mdioc.accept_mdc (m : Mdioc) (r : Request) :
    (m.accept r).mdc = false := rfl

/-! ### Clkseq.fail -/

@[simp] theorem Clkseq.fail_stage (m : Clkseq) (e : StageError) :
    (m.fail e).stage = .failed := rfl
@[simp] theorem Clkseq.fail_err (m : Clkseq) (e : StageError) :
    (m.fail e).err = some e := rfl
@[simp] theorem Clkseq.fail_wdtOk (m : Clkseq) (e : StageError) :
    (m.fail e).wdtOk = m.wdtOk := rfl
@[simp] theorem Clkseq.fail_wdtDiv (m : Clkseq) (e : StageError) :
    (m.fail e).wdtDiv = m.wdtDiv := rfl
@[simp] theorem Clkseq.fail_plan (m : Clkseq) (e : StageError) :
    (m.fail e).plan = m.plan := rfl
@[simp] theorem Clkseq.fail_freqXosc (m : Clkseq) (e : StageError) :
    (m.fail e).freqXosc = m.freqXosc := rfl
@[simp] theorem Clkseq.fail_freqPllSys (m : Clkseq) (e : StageError) :
    (m.fail e).freqPllSys = m.freqPllSys := rfl
@[simp] theorem Clkseq.fail_freqPllUsb (m : Clkseq) (e : StageError) :
    (m.fail e).freqPllUsb = m.freqPllUsb := rfl
@[simp] theorem Clkseq.fail_freqClk (m : Clkseq) (e : StageError) :
    (m.fail e).freqClk = m.freqClk := rfl

/-! ### Env.popMdio -/

@[simp] theorem Env.popMdio_clocks (m : Env) :
    (m.popMdio).clocks = m.clocks := rfl
@[simp] theorem Env.popMdio_mdioIn (m : Env) :
    (m.popMdio).mdioIn = m.mdioIn.tail := rfl
@[simp] theorem Env.popMdio_seqIn (m : Env) :
    (m.popMdio).seqIn = m.seqIn := rfl
@[simp] theorem Env.popMdio_mdioTicks (m : Env) :
    (m.popMdio).mdioTicks = m.mdioTicks + 1 := rfl
@[simp] theorem Env.popMdio_seqTicks (m : Env) :
    (m.popMdio).seqTicks = m.seqTicks := rfl

/-! ### Env.popSeq -/

@[simp] theorem Env.popSeq_clocks (m : Env) :
    (m.popSeq).clocks = m.clocks := rfl
@[simp] theorem Env.popSeq_mdioIn (m : Env) :
    (m.popSeq).mdioIn = m.mdioIn := rfl
@[simp] theorem Env.popSeq_seqIn (m : Env) :
    (m.popSeq).seqIn = m.seqIn.tail := rfl
@[simp] theorem Env.popSeq_mdioTicks (m : Env) :
    (m.popSeq).mdioTicks = m.mdioTicks := rfl
@[simp] theorem Env.popSeq_seqTicks (m : Env) :
    (m.popSeq).seqTicks = m.seqTicks + 1 := rfl

/-! ### Env.popClock -/

@[simp] theorem Env.popClock_clocks (m : Env) :
    (m.popClock).clocks = m.clocks.tail := rfl
@[simp] theorem Env.popClock_mdioIn (m : Env) :
    (m.popClock).mdioIn = m.mdioIn := rfl
@[simp] theorem Env.popClock_seqIn (m : Env) :
    (m.popClock).seqIn = m.seqIn := rfl
@[simp] theorem Env.popClock_mdioTicks (m : Env) :
    (m.popClock).mdioTicks = m.mdioTicks := rfl
@[simp] theorem Env.popClock_seqTicks (m : Env) :
    (m.popClock).seqTicks = m.seqTicks := rfl

/-! ### The machine's ticks and the host's move -/

@[simp] theorem tickMdioc_mdioc (a : MdioAct) (s : State) :
    (tickMdioc a s).mdioc = s.mdioc.tick Config.params s.env.mdioDraw a := rfl
@[simp] theorem tickMdioc_clkseq (a : MdioAct) (s : State) :
    (tickMdioc a s).clkseq = s.clkseq := rfl
@[simp] theorem tickMdioc_host (a : MdioAct) (s : State) :
    (tickMdioc a s).host = s.host := rfl
@[simp] theorem tickMdioc_env (a : MdioAct) (s : State) :
    (tickMdioc a s).env = s.env.popMdio := rfl
@[simp] theorem tickClkseq_mdioc (a : SeqAct) (s : State) :
    (tickClkseq a s).mdioc = s.mdioc := rfl
@[simp] theorem tickClkseq_clkseq (a : SeqAct) (s : State) :
    (tickClkseq a s).clkseq = s.clkseq.tick Config.params s.env.seqDraw a := rfl
@[simp] theorem tickClkseq_host (a : SeqAct) (s : State) :
    (tickClkseq a s).host = s.host := rfl
@[simp] theorem tickClkseq_env (a : SeqAct) (s : State) :
    (tickClkseq a s).env = s.env.popSeq := rfl
@[simp] theorem State.moved_mdioc (s : State) (rest : List HostOp) : (s.moved rest).mdioc = s.mdioc := rfl
@[simp] theorem State.moved_clkseq (s : State) (rest : List HostOp) : (s.moved rest).clkseq = s.clkseq := rfl
@[simp] theorem State.moved_env (s : State) (rest : List HostOp) : (s.moved rest).env = s.env.popClock := rfl
@[simp] theorem State.moved_todo (s : State) (rest : List HostOp) : (s.moved rest).host.todo = rest := rfl
@[simp] theorem State.moved_vars (s : State) (rest : List HostOp) : (s.moved rest).host.vars = s.host.vars := rfl

/-! ### The draws do not look at the schedule -/

@[simp] theorem Env.popClock_mdioDraw (e : Env) : e.popClock.mdioDraw = e.mdioDraw := rfl

@[simp] theorem Env.popClock_seqDraw (e : Env) : e.popClock.seqDraw = e.seqDraw := rfl

@[simp] theorem Env.popSeq_mdioDraw (e : Env) : e.popSeq.mdioDraw = e.mdioDraw := rfl

@[simp] theorem Env.popMdio_seqDraw (e : Env) : e.popMdio.seqDraw = e.seqDraw := rfl

@[simp] theorem Env.mdioDraw_rst (e : Env) : e.mdioDraw.rst = e.nextMdio.rst := rfl

@[simp] theorem Env.seqDraw_rst (e : Env) : e.seqDraw.rst = e.nextSeq.rst := rfl

/-! ### The record of seven -/

@[simp] theorem perClkGet_set_same (v : PerClk) (k : DClk) (w : Word) : perClkGet (perClkSet v k w) k = w := by
  cases k <;> rfl

theorem perClkGet_set_other (v : PerClk) {j k : DClk} (w : Word) (h : j ≠ k) :
    perClkGet (perClkSet v k w) j = perClkGet v j := by
  cases j <;> cases k <;> first | rfl | exact absurd rfl h

@[simp] theorem perClkGet_zero (k : DClk) : perClkGet perClkZero k = 0#32 := by
  cases k <;> rfl

theorem clkIndex_injective {j k : DClk} (h : clkIndex j = clkIndex k) : j = k := by
  cases j <;> cases k <;> first | rfl | exact absurd h (by decide)

theorem clkIndex_lt (k : DClk) : clkIndex k < 7 := by
  cases k <;> decide

end Sys2Proof.Machine
end

