-- ==== Sys2Proof/Laws/Bus.lean ====
section
/-! SUPPORT. Host variables, and what a step can do, said once: a proof about every step starts from `step_cases`. -/

namespace Sys2Proof.Machine

/-! ## Host variables -/

theorem mem_setVar {k : Nat} {v : Word} {l : List (Nat × Word)} {e : Nat × Word} (h : e ∈ setVar k v l) :
    e = (k, v) ∨ e ∈ l := by
  induction l with
  | nil => exact .inl (by simpa [setVar] using h)
  | cons x rest ih =>
    simp only [setVar] at h
    split at h
    · exact List.mem_cons.mp h
    · split at h
      · rcases List.mem_cons.mp h with h | h
        · exact .inl h
        · exact .inr (List.mem_cons_of_mem _ h)
      · rcases List.mem_cons.mp h with h | h
        · exact .inr (h ▸ List.mem_cons_self)
        · exact (ih h).imp_right (List.mem_cons_of_mem _)

/-- Storing a variable keeps the keys strictly rising. -/
theorem setVar_sorted (k : Nat) (v : Word) {l : List (Nat × Word)} (h : varsSorted l) : varsSorted (setVar k v l) := by
  induction l with
  | nil => exact ⟨nofun, trivial⟩
  | cons x rest ih =>
    obtain ⟨j, w⟩ := x
    obtain ⟨hj, hrest⟩ := h
    simp only [setVar]
    split
    · rename_i hlt
      refine ⟨fun e he => ?_, hj, hrest⟩
      rcases List.mem_cons.mp he with rfl | he
      · exact hlt
      · exact Nat.lt_trans hlt (hj e he)
    · split
      · rename_i heq
        exact ⟨fun e he => heq ▸ hj e he, hrest⟩
      · refine ⟨fun e he => ?_, ih hrest⟩
        rcases mem_setVar he with rfl | he
        · show j < k
          omega
        · exact hj e he

/-- A variable reads as what was last stored in it. -/
theorem getVar_setVar_same (k : Nat) (v : Word) (l : List (Nat × Word)) : getVar k (setVar k v l) = some v := by
  induction l with
  | nil => simp [setVar, getVar]
  | cons x rest ih =>
    simp only [setVar]
    split
    · simp [getVar]
    · split
      · simp [getVar]
      · rename_i hne
        simp [getVar, hne, ih]

/-- Storing one variable leaves every other. -/
theorem getVar_setVar_other {j k : Nat} (v : Word) (l : List (Nat × Word)) (h : j ≠ k) :
    getVar j (setVar k v l) = getVar j l := by
  induction l with
  | nil => simp [setVar, getVar, h]
  | cons x rest ih =>
    simp only [setVar]
    split
    · simp [getVar, h]
    · split
      · rename_i heq
        simp [getVar, h, ← heq]
      · simp [getVar, ih]

/-! ## Routing -/

/-- An admitted offset is what is asked for; every other access to a window is refused. -/
theorem routeReg_cases (blk : Block) (off width : Nat) :
    (admitted width off = true ∧ routeReg blk off width = .reg blk off) ∨
    (admitted width off = false ∧ routeReg blk off width = .refused .unadmittedAccess) := by
  cases h : admitted width off <;> simp [routeReg, h]

/-- MDIOC's map and its inverse agree (10_state.md R24). -/
@[simp] theorem mdioRegAt_off (r : MdioReg) : mdioRegAt (mdioRegOff r) = some r := by cases r <;> rfl

/-- CLKSEQ's map and its inverse agree (10_state.md R31). -/
@[simp] theorem clkRegAt_off (r : ClkReg) : clkRegAt (clkRegOff r) = some r := by
  cases r with
  | plan r => cases r with
    | target k => cases k <;> rfl
    | _ => rfl
  | freq k => cases k <;> rfl
  | _ => rfl

/-- The next step, when the host's next write is made in it and its offset is admitted: what the write presents. -/
theorem fetch_writesNext {s : State} {blk : Block} {off : Nat} {v : Word} {rest : List HostOp}
    (h : s.writesNext blk off v rest) (ha : admitted 32 off = true) :
    fetch s = writeAction blk off v (s.moved rest) := by
  simp [fetch, h.1, h.2, opTarget, opWidth, route, routeReg, ha, perform, State.moved]

/-- A step in which the host makes no access: it has none to make, or its next one is for the block whose clock is not next. -/
theorem fetch_noAccess {s : State}
    (h : s.host.todo = [] ∨ ∃ op rest blk off, s.host.todo = op :: rest ∧
      route Config.params (opTarget op) (opWidth op) = .reg blk off ∧ blk ≠ s.env.nextClock) :
    fetch s = idleTick s.env.nextClock { s with env := s.env.popClock } := by
  rcases h with h | ⟨op, rest, blk, off, h, hr, hb⟩ <;> simp [fetch, *]

/-! ## Meanings and ticks -/

/-- Every instruction's meaning is one tick of its block. -/
theorem exec_cases (i : Instr) (s : State) :
    (∃ a, i.port = .mdioCmd ∧ exec i s = .next (tickMdioc a s)) ∨
    (∃ a, i.port = .clkCtrl ∧ exec i s = .next (tickClkseq a s)) := by
  cases i with
  | mdioRead phy reg ta data => exact .inl ⟨_, rfl, rfl⟩
  | mdioWrite phy reg ta data => exact .inl ⟨_, rfl, rfl⟩
  | clkseqStart ignored => exact .inr ⟨_, rfl, rfl⟩

theorem decode_port {p : Port} {w : Word} {i : Instr} (h : decode p w = .instr i) : i.port = p := by
  cases p with
  | mdioCmd =>
    simp only [decode, decodeCmd] at h
    split at h
    · cases h
    · split at h
      · cases h; rfl
      · split at h
        · cases h; rfl
        · cases h
  | clkCtrl =>
    simp only [decode, decodeCtrl] at h
    split at h
    · cases h; rfl
    · cases h

/-- What a `Fetched` that goes on does: one tick of `blk` from state `s`. -/
def ticks (blk : Block) (s : State) (f : Fetched) : Prop :=
  match blk with
  | .mdioc => (∃ a, f = .mdioc a s) ∨ ∃ i, f = .command i s ∧ i.port = .mdioCmd
  | .clkseq => (∃ a, f = .clkseq a s) ∨ ∃ i, f = .command i s ∧ i.port = .clkCtrl

theorem idleTick_ticks (blk : Block) (s : State) : ticks blk s (idleTick blk s) := by
  cases blk <;> exact .inl ⟨_, rfl⟩

theorem writeAction_ticks (blk : Block) (off : Nat) (v : Word) (s : State) : ticks blk s (writeAction blk off v s) := by
  cases blk with
  | mdioc =>
    simp only [writeAction, mdioWriteAction]
    split
    · split
      · rename_i i hd
        exact .inr ⟨i, rfl, decode_port hd⟩
      · exact .inl ⟨_, rfl⟩
    all_goals exact .inl ⟨_, rfl⟩
  | clkseq =>
    simp only [writeAction, clkWriteAction]
    split
    · split
      · rename_i i hd
        exact .inr ⟨i, rfl, decode_port hd⟩
      · exact .inl ⟨_, rfl⟩
    all_goals exact .inl ⟨_, rfl⟩

/-- Everything a step that goes on can do: the block whose clock is next ticks, from a state in which the schedule has moved
on and only the host's operations and variables may differ. -/
theorem step_cases {s t : State} (h : step s = .next t) :
    ∃ s' : State, s'.mdioc = s.mdioc ∧ s'.clkseq = s.clkseq ∧ s'.env = s.env.popClock ∧
      (s'.host.vars = s.host.vars ∨ ∃ k v, s'.host.vars = setVar k v s.host.vars) ∧
      ((s.env.nextClock = .mdioc ∧ ∃ a, t = tickMdioc a s') ∨
       (s.env.nextClock = .clkseq ∧ ∃ a, t = tickClkseq a s')) := by
  have main : ∀ s' : State, ticks s.env.nextClock s' (fetch s) →
      ((s.env.nextClock = .mdioc ∧ ∃ a, t = tickMdioc a s') ∨ (s.env.nextClock = .clkseq ∧ ∃ a, t = tickClkseq a s')) := by
    intro s' hf
    have hport : ∀ i, fetch s = .command i s' → exec i s' = .next t := fun i hi => by simpa [step, hi] using h
    cases hb : s.env.nextClock with
    | mdioc =>
      rw [hb] at hf
      refine .inl ⟨rfl, ?_⟩
      rcases hf with ⟨a, hf⟩ | ⟨i, hf, hp⟩
      · exact ⟨a, by simpa [step, hf] using h.symm⟩
      · rcases exec_cases i s' with ⟨a, _, he⟩ | ⟨a, hp', _⟩
        · exact ⟨a, by simpa [he] using (hport i hf).symm⟩
        · rw [hp] at hp'; cases hp'
    | clkseq =>
      rw [hb] at hf
      refine .inr ⟨rfl, ?_⟩
      rcases hf with ⟨a, hf⟩ | ⟨i, hf, hp⟩
      · exact ⟨a, by simpa [step, hf] using h.symm⟩
      · rcases exec_cases i s' with ⟨a, hp', _⟩ | ⟨a, _, he⟩
        · rw [hp] at hp'; cases hp'
        · exact ⟨a, by simpa [he] using (hport i hf).symm⟩
  have idle : fetch s = idleTick s.env.nextClock { s with env := s.env.popClock } →
      ∃ s' : State, s'.mdioc = s.mdioc ∧ s'.clkseq = s.clkseq ∧ s'.env = s.env.popClock ∧
        (s'.host.vars = s.host.vars ∨ ∃ k v, s'.host.vars = setVar k v s.host.vars) ∧
        ((s.env.nextClock = .mdioc ∧ ∃ a, t = tickMdioc a s') ∨
         (s.env.nextClock = .clkseq ∧ ∃ a, t = tickClkseq a s')) := fun hf =>
    ⟨{ s with env := s.env.popClock }, rfl, rfl, rfl, .inl rfl, main _ (hf ▸ idleTick_ticks _ _)⟩
  cases htodo : s.host.todo with
  | nil => exact idle (by simp [fetch, htodo])
  | cons op rest =>
    cases hr : route Config.params (opTarget op) (opWidth op) with
    | refused r => simp [step, fetch, htodo, hr] at h
    | fault f => simp [step, fetch, htodo, hr] at h
    | reg blk off =>
      by_cases hb : blk = s.env.nextClock
      · have hf : fetch s = perform op rest blk off { s with env := s.env.popClock } := by simp [fetch, htodo, hr, hb]
        cases op with
        | wr tg w v =>
          exact ⟨{ s with host := { s.host with todo := rest }, env := s.env.popClock }, rfl, rfl, rfl, .inl rfl,
            main _ (by rw [hf, ← hb]; exact writeAction_ticks _ _ _ _)⟩
        | rd dst tg w =>
          exact ⟨{ s with
              host := { todo := rest, vars := setVar dst (regRead s blk off) s.host.vars }, env := s.env.popClock },
            rfl, rfl, rfl, .inr ⟨_, _, rfl⟩, main _ (by rw [hf, ← hb]; exact idleTick_ticks _ _)⟩
        | wait tg hi lo v =>
          by_cases hfield : hi < lo ∨ 32 ≤ hi
          · simp [step, hf, perform, hfield] at h
          · by_cases hv : fieldOf (regRead { s with env := s.env.popClock } blk off) hi lo = v
            · exact ⟨{ s with host := { s.host with todo := rest }, env := s.env.popClock }, rfl, rfl, rfl, .inl rfl,
                main _ (by rw [hf, ← hb]; simp only [perform, if_neg hfield, if_pos hv]; exact idleTick_ticks _ _)⟩
            · exact idle (by rw [hf, ← hb]; simp only [perform, if_neg hfield, if_neg hv])
      · exact idle (by simp [fetch, htodo, hr, hb])

end Sys2Proof.Machine
end

