-- ==== Sys2Proof/Laws/Config.lean ====
section
/-! SUPPORT. The machine's parameters meet what R7 and R67 require, whatever the values of the constants behind them. -/

namespace Sys2Proof.Machine

theorem params_wf : Config.params.wf := by
  refine ⟨Nat.succ_le_succ (Nat.zero_le _), Nat.succ_le_of_lt (by have := Config.ticksLessOne.isLt; exact this), ?_⟩
  show Config.mdiocPage ≠ if Config.clkseqPageWish = Config.mdiocPage then Config.clkseqPageWish + 1 else Config.clkseqPageWish
  split <;> omega

/-- `MIN_DIV` is `TICKS_PER_UNIT`, which fits its 16 bits. -/
theorem minDiv_toNat {P : Params} (h : P.wf) : P.minDiv.toNat = P.ticksPerUnit := by
  obtain ⟨_, h2, _⟩ := h
  simp only [Params.minDiv, BitVec.toNat_ofNat]
  omega

end Sys2Proof.Machine
end

