-- ==== Sys2Proof/Laws/Clk.lean ====
section
/-! SUPPORT. What each stage of CLKSEQ can do, said once; a proof about a tick starts from `Clkseq.tick_cases`. -/

namespace Sys2Proof.Machine

/-- `fout` is exactly the quotient: it is at most VCO, so it fits (R144). -/
theorem pllFout_toNat (vco : Word) (d : PllDiv) : (pllFout vco d).toNat = vco.toNat / (d.pd1.toNat * d.pd2.toNat) := by
  have h := Nat.div_le_self vco.toNat (d.pd1.toNat * d.pd2.toNat)
  have hv := vco.isLt
  rw [pllFout, BitVec.toNat_ofNat]
  exact Nat.mod_eq_of_lt (Nat.lt_of_le_of_lt h hv)

/-- `freq_k` is exactly the quotient: it is at most the source frequency, so it fits (R147). -/
theorem clkFreq_toNat (src target : Word) :
    (clkFreq src target).toNat = src.toNat / ceilDiv src.toNat target.toNat := by
  have h := Nat.div_le_self src.toNat (ceilDiv src.toNat target.toNat)
  have hv := src.isLt
  rw [clkFreq, BitVec.toNat_ofNat]
  exact Nat.mod_eq_of_lt (Nat.lt_of_le_of_lt h hv)

/-- R144's legality as a conjunction, with FBDIV kept folded. -/
theorem pllLegal_iff (P : Params) (fref vco : Word) (d : PllDiv) :
    pllLegal P fref vco d = true ↔
      1 ≤ d.refdiv.toNat ∧ 1 ≤ d.pd1.toNat ∧ 1 ≤ d.pd2.toNat ∧ 1 ≤ vco.toNat ∧
      vco.toNat * d.refdiv.toNat % fref.toNat = 0 ∧ 1 ≤ pllFbdiv fref vco d ∧
      P.pllExtraLegal fref.toNat d.refdiv.toNat (pllFbdiv fref vco d) vco.toNat d.pd1.toNat d.pd2.toNat = true := by
  simp [pllLegal, and_assoc]

/-- R147's legality as a conjunction. -/
theorem clkLegal_iff (src target : Word) :
    clkLegal src target = true ↔ 1 ≤ target.toNat ∧ target.toNat ≤ src.toNat := by
  simp [clkLegal]

/-- A plan is legal when every stage's check passes, clock by clock. -/
theorem Plan.legal_iff (P : Params) (p : Plan) :
    Plan.Legal P p ↔ p.fxosc ≠ 0#32 ∧ pllLegal P p.fxosc p.sysVco p.sysDiv = true ∧
      pllLegal P p.fxosc p.usbVco p.usbDiv = true ∧ ∀ k, clkLegal (Plan.source p k) (perClkGet p.target k) = true :=
  ⟨fun h => ⟨h.fxosc, h.sys, h.usb, h.clk⟩, fun h => ⟨h.1, h.2.1, h.2.2.1, h.2.2.2⟩⟩

/-- The watchdog's frequency with `wdt_ok = 0`, once programmed, is its free error away from 1 MHz. -/
theorem Clkseq.wdtHz_inexact {n : Nat} {c : Clkseq} (hp : c.wdtProgrammed = true) (h : c.wdtOk = false) :
    c.wdtHz n = (wdtTickHz : ℚ) + (Config.wdtErrorHz n).val := by
  simp [Clkseq.wdtHz, hp, h]

/-- The watchdog's frequency with `wdt_ok = 1`, once programmed, is the exact quotient. -/
theorem Clkseq.wdtHz_exact {n : Nat} {c : Clkseq} (hp : c.wdtProgrammed = true) (h : c.wdtOk = true) :
    c.wdtHz n = (c.plan.fxosc.toNat : ℚ) / (c.wdtDiv.toNat : ℚ) := by
  simp [Clkseq.wdtHz, hp, h]

/-- A waiting stage that cannot fail its check and is answered: stay, succeed or fail. -/
theorem Clkseq.xoscTick_cases (c : Clkseq) (ans : Answer) :
    (c.plan.fxosc = 0#32 ∧ c.xoscTick ans = c.fail .oscillatorStartFailed) ∨
    (c.plan.fxosc ≠ 0#32 ∧ ans = .none ∧ c.xoscTick ans = c) ∨
    (c.plan.fxosc ≠ 0#32 ∧ ans = .ok ∧ c.xoscTick ans = { c with freqXosc := c.plan.fxosc, stage := .wdt }) ∨
    (c.plan.fxosc ≠ 0#32 ∧ ans = .fail ∧ c.xoscTick ans = c.fail .oscillatorStartFailed) := by
  by_cases h : c.plan.fxosc = 0#32
  · exact .inl ⟨h, by simp [Clkseq.xoscTick, h]⟩
  · cases ans <;> simp [Clkseq.xoscTick, h]

theorem Clkseq.pllSysTick_cases (P : Params) (c : Clkseq) (ans : Answer) :
    (pllLegal P c.plan.fxosc c.plan.sysVco c.plan.sysDiv = false ∧ c.pllSysTick P ans = c.fail .systemPllFailed) ∨
    (pllLegal P c.plan.fxosc c.plan.sysVco c.plan.sysDiv = true ∧ ans = .none ∧ c.pllSysTick P ans = c) ∨
    (pllLegal P c.plan.fxosc c.plan.sysVco c.plan.sysDiv = true ∧ ans = .ok ∧
      c.pllSysTick P ans = { c with freqPllSys := pllFout c.plan.sysVco c.plan.sysDiv, stage := .pllUsb }) ∨
    (pllLegal P c.plan.fxosc c.plan.sysVco c.plan.sysDiv = true ∧ ans = .fail ∧
      c.pllSysTick P ans = c.fail .systemPllFailed) := by
  cases h : pllLegal P c.plan.fxosc c.plan.sysVco c.plan.sysDiv <;> cases ans <;> simp [Clkseq.pllSysTick, h]

theorem Clkseq.pllUsbTick_cases (P : Params) (c : Clkseq) (ans : Answer) :
    (pllLegal P c.plan.fxosc c.plan.usbVco c.plan.usbDiv = false ∧ c.pllUsbTick P ans = c.fail .usbPllFailed) ∨
    (pllLegal P c.plan.fxosc c.plan.usbVco c.plan.usbDiv = true ∧ ans = .none ∧ c.pllUsbTick P ans = c) ∨
    (pllLegal P c.plan.fxosc c.plan.usbVco c.plan.usbDiv = true ∧ ans = .ok ∧
      c.pllUsbTick P ans = { c with freqPllUsb := pllFout c.plan.usbVco c.plan.usbDiv, stage := .clk .ref }) ∨
    (pllLegal P c.plan.fxosc c.plan.usbVco c.plan.usbDiv = true ∧ ans = .fail ∧
      c.pllUsbTick P ans = c.fail .usbPllFailed) := by
  cases h : pllLegal P c.plan.fxosc c.plan.usbVco c.plan.usbDiv <;> cases ans <;> simp [Clkseq.pllUsbTick, h]

theorem Clkseq.clkTick_cases (c : Clkseq) (k : DClk) (ans : Answer) :
    (clkLegal (c.source k) (perClkGet c.plan.target k) = false ∧ c.clkTick k ans = c.fail (.derivedClockFailed k)) ∨
    (clkLegal (c.source k) (perClkGet c.plan.target k) = true ∧ ans = .none ∧ c.clkTick k ans = c) ∨
    (clkLegal (c.source k) (perClkGet c.plan.target k) = true ∧ ans = .ok ∧
      c.clkTick k ans =
        { c with
          freqClk := perClkSet c.freqClk k (clkFreq (c.source k) (perClkGet c.plan.target k))
          stage := stageAfter k }) ∨
    (clkLegal (c.source k) (perClkGet c.plan.target k) = true ∧ ans = .fail ∧
      c.clkTick k ans = c.fail (.derivedClockFailed k)) := by
  cases h : clkLegal (c.source k) (perClkGet c.plan.target k) <;> cases ans <;> simp [Clkseq.clkTick, h]

/-- A reset tick, whatever the host does in it. -/
theorem Clkseq.tick_reset (P : Params) {d : SeqDraw} (a : SeqAct) (c : Clkseq) (h : d.rst = true) :
    c.tick P d a = Clkseq.reset P := by
  simp [Clkseq.tick, h]

/-- Everything a tick of CLKSEQ can do, by stage. -/
theorem Clkseq.tick_cases (P : Params) (d : SeqDraw) (a : SeqAct) (c : Clkseq) :
    (d.rst = true ∧ c.tick P d a = Clkseq.reset P) ∨
    (d.rst = false ∧ c.stage = .idle ∧ c.tick P d a = c.idleTick a) ∨
    (d.rst = false ∧ c.stage = .xosc ∧ c.tick P d a = c.xoscTick d.answer) ∨
    (d.rst = false ∧ c.stage = .wdt ∧ c.tick P d a = c.wdtTick) ∨
    (d.rst = false ∧ c.stage = .pllSys ∧ c.tick P d a = c.pllSysTick P d.answer) ∨
    (d.rst = false ∧ c.stage = .pllUsb ∧ c.tick P d a = c.pllUsbTick P d.answer) ∨
    (∃ k, d.rst = false ∧ c.stage = .clk k ∧ c.tick P d a = c.clkTick k d.answer) ∨
    (d.rst = false ∧ (c.stage = .done ∨ c.stage = .failed) ∧ c.tick P d a = c) := by
  cases hr : d.rst with
  | true => exact .inl ⟨rfl, Clkseq.tick_reset P a c hr⟩
  | false => cases hs : c.stage <;> simp [Clkseq.tick, hr, hs]

@[simp] theorem Clkseq.run_nil (P : Params) (c : Clkseq) : Clkseq.run P [] c = c := rfl

@[simp] theorem Clkseq.run_cons (P : Params) (i : SeqDraw × SeqAct) (ins : List (SeqDraw × SeqAct)) (c : Clkseq) :
    Clkseq.run P (i :: ins) c = Clkseq.run P ins (c.tick P i.1 i.2) := rfl

theorem Clkseq.run_append (P : Params) (xs ys : List (SeqDraw × SeqAct)) (c : Clkseq) :
    Clkseq.run P (xs ++ ys) c = Clkseq.run P ys (Clkseq.run P xs c) := by
  simp [Clkseq.run, List.foldl_append]

end Sys2Proof.Machine
end

