-- ==== Sys2Proof/Laws/Encoding.lean ====
section
/-! SUPPORT. The bits of a command word, field by field: a proof about an encoding cites these and never unfolds the
concatenation. -/

namespace Sys2Proof

/-- Format CMD32, bit by bit (30_encoding.md R81). -/
theorem cmdWord_getLsbD (op : BitVec 2) (phy reg : BitVec 5) (ta : BitVec 2) (data : BitVec 16) (i : Nat) :
    (cmdWord op phy reg ta data).getLsbD i =
      if i < 16 then data.getLsbD i
      else if i < 18 then ta.getLsbD (i - 16)
      else if i < 23 then reg.getLsbD (i - 18)
      else if i < 28 then phy.getLsbD (i - 23)
      else if i < 30 then op.getLsbD (i - 28)
      else (0b01#2).getLsbD (i - 30) := by
  simp only [cmdWord, BitVec.getLsbD_append, Nat.sub_sub]
  split_ifs <;> first | rfl | omega

/-- Format CTRL32, bit by bit (30_encoding.md R90). -/
theorem encode_clkseqStart_getLsbD (ignored : BitVec 31) (i : Nat) :
    (encode (.clkseqStart ignored)).getLsbD i = if i < 1 then true else ignored.getLsbD (i - 1) := by
  simp only [encode, BitVec.getLsbD_append]
  split
  · rename_i h
    obtain rfl : i = 0 := by omega
    rfl
  · rfl

end Sys2Proof
end

