-- ==== Sys2Proof/Laws/Mdio.lean ====
section
/-! SUPPORT. What each operation of MDIOC can do, said once; a proof about a tick starts from `Mdioc.tick_cases`. -/

namespace Sys2Proof.Machine

@[simp] theorem Mdioc.busy_iff (m : Mdioc) : m.busy = true ↔ m.mstate ≠ .idle := by
  simp [Mdioc.busy]

/-- A write to MDIO_DIV leaves the greater of the written half-word and `MIN_DIV`. -/
theorem Mdioc.writeDiv_toNat (P : Params) (m : Mdioc) (v : Word) :
    (m.writeDiv P v).div.toNat = max (v.extractLsb' 0 16).toNat P.minDiv.toNat := by
  simp only [Mdioc.writeDiv]
  split <;> omega

/-- Accepting a command starts with the line driven high: cell 0 is a preamble cell. -/
theorem Mdioc.accept_eq (m : Mdioc) (r : Request) :
    m.accept r =
      { m with
        op := r.op, phy := r.phy, reg := r.reg
        wdata := match r.op with
          | .wr => r.data
          | .rd => 0#16
        half := m.div, rx := 0#16, mstate := .low, cell := 0#6, cnt := 0#16, mdc := false, mdioRole := .out, mdioO := true } := by
  obtain ⟨op, phy, reg, data⟩ := r
  cases op <;> rfl

/-- A sample changes `rx` and nothing else. -/
theorem Mdioc.sample_eq (m : Mdioc) (b : Bool) : m.sample b = { m with rx := (m.sample b).rx } := by
  simp only [Mdioc.sample]
  split <;> rfl

/-- What the LOW phase can do. -/
theorem Mdioc.lowTick_cases (m : Mdioc) :
    (m.cnt.toNat + 1 < m.half.toNat ∧ m.lowTick = { m with cnt := m.cnt + 1#16 }) ∨
    (m.half.toNat ≤ m.cnt.toNat + 1 ∧ m.lowTick = { m with mstate := .high, cnt := 0#16, mdc := true }) := by
  by_cases h : m.cnt.toNat + 1 < m.half.toNat
  · exact .inl ⟨h, by simp [Mdioc.lowTick, h]⟩
  · exact .inr ⟨by omega, by simp [Mdioc.lowTick, h]⟩

/-- What the HIGH phase can do. -/
theorem Mdioc.highTick_cases (m : Mdioc) (b : Bool) :
    (m.cnt.toNat + 1 < m.half.toNat ∧ m.highTick b = { m with cnt := m.cnt + 1#16 }) ∨
    (m.half.toNat ≤ m.cnt.toNat + 1 ∧ m.cell.toNat = 63 ∧ m.highTick b = (m.sample b).complete) ∨
    (m.half.toNat ≤ m.cnt.toNat + 1 ∧ m.cell.toNat ≠ 63 ∧ m.highTick b = (m.sample b).enterCell (m.cell + 1#6)) := by
  by_cases h : m.cnt.toNat + 1 < m.half.toNat
  · exact .inl ⟨h, by simp [Mdioc.highTick, h]⟩
  · by_cases h63 : m.cell.toNat = 63
    · exact .inr (.inl ⟨by omega, h63, by simp [Mdioc.highTick, h, h63]⟩)
    · exact .inr (.inr ⟨by omega, h63, by simp [Mdioc.highTick, h, h63]⟩)

/-- CMD_ERR has no part in the running transaction: setting it and advancing commute. -/
theorem Mdioc.advance_reject (m : Mdioc) (b : Bool) : m.reject.advance b = (m.advance b).reject := by
  cases hm : m.mstate with
  | idle => simp [Mdioc.advance, hm]
  | low =>
    simp only [Mdioc.advance, Mdioc.reject_mstate, hm, Mdioc.lowTick, Mdioc.reject_cnt, Mdioc.reject_half]
    split <;> rfl
  | high =>
    simp only [Mdioc.advance, Mdioc.reject_mstate, hm, Mdioc.highTick, Mdioc.sample, Mdioc.reject_cnt, Mdioc.reject_half,
      Mdioc.reject_cell, Mdioc.reject_op]
    split_ifs <;> rfl

/-- What the host's stores can do: DIV, or the two flags, or nothing. -/
theorem Mdioc.hostStore_cases (P : Params) (m : Mdioc) (a : MdioAct) :
    (∃ v, a = .div v ∧ m.hostStore P a = m.writeDiv P v) ∨
    (∃ v, a = .status v ∧ m.hostStore P a = m.clearFlags v) ∨
    ((∀ v, a ≠ .div v) ∧ (∀ v, a ≠ .status v) ∧ m.hostStore P a = m) := by
  cases a with
  | div v => exact .inl ⟨v, rfl, rfl⟩
  | status v => exact .inr (.inl ⟨v, rfl, rfl⟩)
  | none => exact .inr (.inr ⟨nofun, nofun, rfl⟩)
  | request r => exact .inr (.inr ⟨nofun, nofun, rfl⟩)
  | reserved => exact .inr (.inr ⟨nofun, nofun, rfl⟩)

/-- The host's stores leave everything but `div`, `done` and `cmdErr`. -/
theorem Mdioc.hostStore_eq (P : Params) (m : Mdioc) (a : MdioAct) :
    m.hostStore P a =
      { m with div := (m.hostStore P a).div, done := (m.hostStore P a).done, cmdErr := (m.hostStore P a).cmdErr } := by
  cases a <;> rfl

@[simp] theorem Mdioc.hostStore_mstate (P : Params) (m : Mdioc) (a : MdioAct) : (m.hostStore P a).mstate = m.mstate := by
  cases a <;> rfl

@[simp] theorem Mdioc.hostStore_pinFault (P : Params) (m : Mdioc) (a : MdioAct) :
    (m.hostStore P a).pinFault = m.pinFault := by
  cases a <;> rfl

/-- A reset tick, whatever the host does in it. -/
theorem Mdioc.tick_reset (P : Params) {d : MdioDraw} (a : MdioAct) (m : Mdioc) (h : d.rst = true) :
    m.tick P d a = Mdioc.reset P := by
  simp [Mdioc.tick, h]

/-- An IDLE tick: the host's access alone. -/
theorem Mdioc.tick_idle (P : Params) {d : MdioDraw} (a : MdioAct) {m : Mdioc} (h : d.rst = false) (hm : m.mstate = .idle) :
    m.tick P d a = (m.hostStore P a).present a := by
  simp [Mdioc.tick, h, Mdioc.busy, hm]

/-- A busy tick in which a pin failure counts. -/
theorem Mdioc.tick_pinAbort (P : Params) {d : MdioDraw} (a : MdioAct) {m : Mdioc} (h : d.rst = false)
    (hm : m.mstate ≠ .idle) (hp : (P.pinFallible && d.pinErr) = true) :
    m.tick P d a = (if a.isCommand then (m.hostStore P a).reject else m.hostStore P a).pinAbort := by
  simp [Mdioc.tick, h, Mdioc.busy, hm, Mdioc.busyTick, hp]

/-- A quiet busy tick: the running transaction advances. -/
theorem Mdioc.tick_quiet (P : Params) {d : MdioDraw} (a : MdioAct) {m : Mdioc} (h : d.quiet P) (hm : m.mstate ≠ .idle) :
    m.tick P d a = (if a.isCommand then (m.hostStore P a).reject else m.hostStore P a).advance d.line := by
  simp [Mdioc.tick, h.1, Mdioc.busy, hm, Mdioc.busyTick, h.2]

/-- Everything a tick of MDIOC can do. -/
theorem Mdioc.tick_cases (P : Params) (d : MdioDraw) (a : MdioAct) (m : Mdioc) :
    (d.rst = true ∧ m.tick P d a = Mdioc.reset P) ∨
    (d.rst = false ∧ m.mstate = .idle ∧ m.tick P d a = (m.hostStore P a).present a) ∨
    (d.rst = false ∧ m.mstate ≠ .idle ∧ (P.pinFallible && d.pinErr) = true ∧
      m.tick P d a = (if a.isCommand then (m.hostStore P a).reject else m.hostStore P a).pinAbort) ∨
    (d.quiet P ∧ m.mstate ≠ .idle ∧
      m.tick P d a = (if a.isCommand then (m.hostStore P a).reject else m.hostStore P a).advance d.line) := by
  cases hr : d.rst with
  | true => exact .inl ⟨rfl, Mdioc.tick_reset P a m hr⟩
  | false =>
    by_cases hm : m.mstate = .idle
    · exact .inr (.inl ⟨rfl, hm, Mdioc.tick_idle P a hr hm⟩)
    · cases hp : (P.pinFallible && d.pinErr) with
      | true => exact .inr (.inr (.inl ⟨rfl, hm, rfl, Mdioc.tick_pinAbort P a hr hm hp⟩))
      | false => exact .inr (.inr (.inr ⟨⟨hr, hp⟩, hm, Mdioc.tick_quiet P a ⟨hr, hp⟩ hm⟩))

@[simp] theorem Mdioc.run_nil (P : Params) (m : Mdioc) : Mdioc.run P [] m = m := rfl

@[simp] theorem Mdioc.run_cons (P : Params) (i : MdioDraw × MdioAct) (ins : List (MdioDraw × MdioAct)) (m : Mdioc) :
    Mdioc.run P (i :: ins) m = Mdioc.run P ins (m.tick P i.1 i.2) := rfl

theorem Mdioc.run_append (P : Params) (xs ys : List (MdioDraw × MdioAct)) (m : Mdioc) :
    Mdioc.run P (xs ++ ys) m = Mdioc.run P ys (Mdioc.run P xs m) := by
  simp [Mdioc.run, List.foldl_append]

@[simp] theorem coRun_nil (P : Params) (s : Mdioc × RefPhy) : coRun P [] s = s := rfl

@[simp] theorem coRun_cons (P : Params) (a : MdioAct) (as : List MdioAct) (s : Mdioc × RefPhy) :
    coRun P (a :: as) s = coRun P as (coTick P a s) := rfl

theorem coRun_append (P : Params) (xs ys : List MdioAct) (s : Mdioc × RefPhy) :
    coRun P (xs ++ ys) s = coRun P ys (coRun P xs s) := by
  simp [coRun, List.foldl_append]

end Sys2Proof.Machine
end

