-- ==== Sys2Proof/Laws/PerInstr.lean ====
section
/-! SUPPORT. Statements made once per instruction, about the instruction as syntax. -/

namespace Sys2Proof.Laws.TableRow

/-- The word of an instruction has the fixed bits of its row of opcode_table.json: under the row's mask it is the row's match
value. -/
def Statement : Instr → Prop
  | .mdioRead phy reg ta data => encode (.mdioRead phy reg ta data) &&& 0xF0000000#32 = 0x60000000#32
  | .mdioWrite phy reg ta data => encode (.mdioWrite phy reg ta data) &&& 0xF0000000#32 = 0x50000000#32
  | .clkseqStart ignored => encode (.clkseqStart ignored) &&& 0x00000001#32 = 0x00000001#32

/-- A CMD32 word under the mask of its top four bits. -/
theorem cmdWord_top (op : BitVec 2) (phy reg : BitVec 5) (ta : BitVec 2) (data : BitVec 16) :
    cmdWord op phy reg ta data &&& 0xF0000000#32 = 0b01#2 ++ op ++ 0#28 := by
  apply BitVec.eq_of_getLsbD_eq
  intro i hi
  have hmask : ∀ j < 32, (0xF0000000#32).getLsbD j = decide (28 ≤ j) := by decide
  rw [BitVec.getLsbD_and, cmdWord_getLsbD, hmask i hi]
  simp only [BitVec.getLsbD_append, Nat.sub_sub]
  split_ifs <;> first | omega | (simp; omega)

theorem mdioRead (phy reg : BitVec 5) (ta : BitVec 2) (data : BitVec 16) : Statement (.mdioRead phy reg ta data) :=
  cmdWord_top _ phy reg ta data

theorem mdioWrite (phy reg : BitVec 5) (ta : BitVec 2) (data : BitVec 16) : Statement (.mdioWrite phy reg ta data) :=
  cmdWord_top _ phy reg ta data

theorem clkseqStart (ignored : BitVec 31) : Statement (.clkseqStart ignored) := by
  apply BitVec.eq_of_getLsbD_eq
  intro i hi
  have hmask : ∀ j < 32, (0x00000001#32).getLsbD j = decide (j < 1) := by decide
  rw [BitVec.getLsbD_and, encode_clkseqStart_getLsbD, hmask i hi]
  by_cases h : i < 1 <;> simp [h]

end Sys2Proof.Laws.TableRow
end

