-- ==== Sys2Proof/Tests/Slice0.lean ====
section
/-! SUPPORT. Tests, each with the spec's own figure (95_test_vectors.md, unless a test names another file), and for every
obligation with hypotheses a witness that meets them. -/

namespace Sys2Proof.Tests

open Sys2Proof Sys2Proof.Machine

/-! ## Helpers: the vectors' parameters and small states -/

/-- The parameters of the vectors' common conventions, with a pin layer that can fail (X6). -/
def vecParams : Params where
  ticksPerUnit  := 1
  pinFallible   := true
  mdiocPage     := 0
  clkseqPage    := 1
  resetPlan     := Config.resetPlan
  pllExtraLegal := fun _ _ _ _ _ _ => true
  microsWidth   := 32

def quiet : MdioDraw := { rst := false, line := true, pinErr := false }
def pinBad : MdioDraw := { quiet with pinErr := true }
def ok : SeqDraw := { rst := false, answer := .ok }
def answering (a : Answer) : SeqDraw := { rst := false, answer := a }

/-- Vector T1, tick 1: write(0, 4, 0x01E1), cell 0, LOW, HALF = 1. -/
def writeLow : Mdioc :=
  { Mdioc.reset vecParams with
    op := .wr, reg := 4#5, wdata := 0x01E1#16, half := 1#16, mstate := .low, mdioRole := .out }

/-- Vector T3, tick 92: read(7, 1), the HIGH tick of cell 45. -/
def readAddressed : Mdioc :=
  { Mdioc.reset vecParams with
    op := .rd, phy := 7#5, reg := 1#5, half := 1#16, mstate := .high, cell := 45#6, mdc := true, mdioRole := .out }

/-- Vector T3, tick 128: read(7, 1), the HIGH tick of cell 63. -/
def readEnding : Mdioc :=
  { Mdioc.reset vecParams with
    op := .rd, phy := 7#5, reg := 1#5, half := 1#16, rx := 0x3C36#16, mstate := .high, cell := 63#6, mdc := true }

/-- Vector T1, tick 128: write(0, 4, 0x01E1), the HIGH tick of cell 63. -/
def writeEnding : Mdioc := { writeLow with mstate := .high, cell := 63#6, mdc := true }

/-- An IDLE block with PIN_FAULT set. -/
def faulted : Mdioc := { Mdioc.reset vecParams with pinFault := true }

/-- The sequencer of vector K1 in stage XOSC, PLL_SYS, PLL_USB, CLK_REF and CLK_GPOUT. -/
def atXosc : Clkseq := { Clkseq.reset vecParams with stage := .xosc }
def atPllSys : Clkseq :=
  { Clkseq.reset vecParams with stage := .pllSys, freqXosc := 12000000#32, wdtDiv := 12#16, wdtOk := true }
def atPllUsb : Clkseq := { atPllSys with stage := .pllUsb, freqPllSys := 100000000#32 }
/-- Vector K6 in stage PLL_SYS: FXOSC = 12 500 000, so `wdt_ok = 0` and `wdt_div = 12`. -/
def atPllSysInexact : Clkseq :=
  { atPllSys with plan := { Config.resetPlan with fxosc := 12500000#32 }, freqXosc := 12500000#32, wdtOk := false }
def atRef : Clkseq := { atPllUsb with stage := .clk .ref, freqPllUsb := 48000000#32 }
def atGpout : Clkseq :=
  { atRef with
    stage := .clk .gpout
    freqClk := { ref := 12000000#32, sys := 100000000#32, usb := 48000000#32, adc := 48000000#32, rtc := 46875#32,
                 peri := 100000000#32, gpout := 0#32 } }

/-- The machine at reset, with one host operation, in a step in which `blk`'s clock ticks. -/
def hostDoes (op : HostOp) (blk : Block) : State :=
  { State.reset with
    host := { todo := [op], vars := [] }
    env := { clocks := [blk], mdioIn := [], seqIn := [], mdioTicks := 0, seqTicks := 0 } }

/-- What MDIO_STATUS or CLK_STATUS reads after a step, if there is a next state. -/
def mdioStatusAfter : Host.Outcome State Fault Refusal → Option Word
  | .next t => some (t.mdioc.hostRead .status)
  | .fault _ => none
  | .refused _ => none

def clkStatusAfter : Host.Outcome State Fault Refusal → Option Word
  | .next t => some (t.clkseq.hostRead .status)
  | .fault _ => none
  | .refused _ => none

/-! ## WellFormed: an ill-formed term for each check -/

theorem test_width_refused : admitted 16 0x04 = false ∧ admitted 8 0x04 = false := by decide
theorem test_misaligned_refused : admitted 32 0x06 = false := by decide
theorem test_offset_refused : admitted 32 0x100 = false ∧ admitted 32 0xFC = true := by decide
theorem test_target_refused : Target.wellFormed 32 (.reg .mdioc 0x01) = false ∧ Target.wellFormed 16 (.mem 0) = false ∧
    Target.wellFormed 32 (.mem 2) = false := by decide
theorem test_hostop_refused : HostOp.wellFormed (.wr (.reg .mdioc 0) 16 0#32) = false ∧
    HostOp.wellFormed (.rd 0 (.reg .clkseq 3) 32) = false ∧ HostOp.wellFormed (.wait (.reg .mdioc 0x102) 0 0 0) = false := by
  decide
theorem test_wait_field_refused : HostOp.wellFormed (.wait (.reg .mdioc 4) 0 1 0) = false ∧
    HostOp.wellFormed (.wait (.reg .mdioc 4) 32 0 0) = false ∧ HostOp.wellFormed (.wait (.reg .mdioc 4) 31 0 0) = true := by
  decide
theorem test_hostcall_refused : HostCall.wellFormed (.mdioRd 0 32 0) = false ∧ HostCall.wellFormed (.mdioRd 0 0 32) = false ∧
    HostCall.wellFormed (.mdioWr 32 0 0) = false ∧ HostCall.wellFormed (.mdioWr 0 32 0) = false ∧
    HostCall.wellFormed (.mdioWr 0 0 65536) = false := by decide
/-- No term of `Instr` is ill formed: the operands' types are their widths. -/
theorem test_instr_wellFormed (i : Instr) : i.wellFormed = true := by cases i <;> rfl

/-! ## Decoding: words written out from the spec's encodings -/

/-- CMD32, field by field (30_encoding.md R81): ST 01, OP 10, PHYAD 00111, REGAD 00001, TA 00, DATA 0; E1's read(7, 1). -/
theorem test_decode_read :
    decode .mdioCmd 0b01100011100001000000000000000000#32 = .instr (.mdioRead 0b00111 0b00001 0b00 0) ∧
    decode .mdioCmd 0x61C40000#32 = .instr (.mdioRead 3 17 0b00 0) ∧
    decode .mdioCmd 0x6FFC0000#32 = .instr (.mdioRead 31 31 0b00 0) ∧
    decode .mdioCmd 0x60800000#32 = .instr (.mdioRead 1 0 0b00 0) := by decide
/-- ST 01, OP 01, PHYAD 00000, REGAD 00100, TA 10, DATA 0000000111100001; E1's write(0, 4, 0x01E1). -/
theorem test_decode_write :
    decode .mdioCmd 0b01010000000100100000000111100001#32 = .instr (.mdioWrite 0b00000 0b00100 0b10 0x01E1) ∧
    decode .mdioCmd 0x51C6A5C3#32 = .instr (.mdioWrite 3 17 0b10 0xA5C3) ∧
    decode .mdioCmd 0x5FFEFFFF#32 = .instr (.mdioWrite 31 31 0b10 0xFFFF) ∧
    decode .mdioCmd 0x53823300#32 = .instr (.mdioWrite 7 0 0b10 0x3300) := by decide
/-- CTRL32 (30_encoding.md R90): bit 0 alone decides; E3. -/
theorem test_decode_start :
    decode .clkCtrl 0b00000000000000000000000000000001#32 = .instr (.clkseqStart 0) ∧
    decode .clkCtrl 0xFFFFFFFF#32 = .instr (.clkseqStart 0x7FFFFFFF) ∧
    decode .clkCtrl 0x80000001#32 = .instr (.clkseqStart 0x40000000) ∧
    decode .clkCtrl 0x00000000#32 = .reject .noCommand ∧ decode .clkCtrl 0xFFFFFFFE#32 = .reject .noCommand ∧
    decode .clkCtrl 0x00000002#32 = .reject .noCommand := by decide
/-- E2. -/
theorem test_decode_corners :
    decode .mdioCmd 0x00000000#32 = .reject .badStart ∧ decode .mdioCmd 0x40000000#32 = .reject .reservedOp ∧
    decode .mdioCmd 0x70000000#32 = .reject .reservedOp ∧ decode .mdioCmd 0xA0000000#32 = .reject .badStart ∧
    decode .mdioCmd 0xE0000000#32 = .reject .badStart ∧ decode .mdioCmd 0x90000000#32 = .reject .badStart ∧
    decode .mdioCmd 0x2FFFFFFF#32 = .reject .badStart ∧ decode .mdioCmd 0xFFFFFFFF#32 = .reject .badStart ∧
    decode .mdioCmd 0x6003FFFF#32 = .instr (.mdioRead 0 0 0b11 0xFFFF) ∧
    decode .mdioCmd 0x50000000#32 = .instr (.mdioWrite 0 0 0b00 0) ∧
    decode .mdioCmd 0x50030000#32 = .instr (.mdioWrite 0 0 0b11 0) := by decide
/-- E1, by the encoding function (30_encoding.md R87). -/
theorem test_enc :
    enc .wr 0 4 0x01E1 = 0x501201E1#32 ∧ enc .rd 7 1 0 = 0x63840000#32 ∧ enc .wr 7 0 0x3300 = 0x53823300#32 := by decide
/-- Lane 0 is bits 7:0 (20_memory.md R64). -/
theorem test_decode_lanes : decodeBytes .mdioCmd [0xE1#8, 0x01#8, 0x12#8, 0x50#8] = .instr (.mdioWrite 0 4 0b10 0x01E1) ∧
    decodeBytes .mdioCmd [0xE1#8, 0x01#8, 0x12#8] = .reject .wrongLength := by decide
/-- The match words of opcode_table.json. -/
theorem test_table_words :
    decodeTableWord 32 0x60000000 = some (.mdioRead 0 0 0 0) ∧ decodeTableWord 32 0x50000000 = some (.mdioWrite 0 0 0 0) ∧
    decodeTableWord 32 0x00000001 = some (.clkseqStart 0) ∧ decodeTableWord 32 0x00000000 = none := by decide

/-! ## The first step after reset runs the word placed -/

theorem test_fetch_read : ∃ s, fetch (State.reset.withFetchWord 32 0x60000000) = .command (.mdioRead 0 0 0 0) s := ⟨_, rfl⟩
theorem test_fetch_write : ∃ s, fetch (State.reset.withFetchWord 32 0x50000000) = .command (.mdioWrite 0 0 0 0) s := ⟨_, rfl⟩
theorem test_fetch_start : ∃ s, fetch (State.reset.withFetchWord 32 0x00000001) = .command (.clkseqStart 0) s := ⟨_, rfl⟩

/-! ## One step of each instruction -/

/-- Vector T1: MDIO_STATUS in tick 1. -/
theorem test_write_accepted : mdioStatusAfter (step (State.reset.withFetchWord 32 0x501201E1)) = some 0x00000041#32 := by decide
/-- Vector X1: a write in tick 5 of a running read (LOW, cell 2): MDIO_STATUS in tick 6. -/
theorem test_write_while_busy :
    (Mdioc.tick vecParams quiet (.request (writeRequest 0 4 0x01E1))
      { readAddressed with mstate := .low, cell := 2#6, mdc := false }).hostRead .status = 0x00000265#32 := by decide
/-- Vector X9's start: a read from reset is in cell 0, LOW. -/
theorem test_read_accepted : mdioStatusAfter (step (State.reset.withFetchWord 32 0x63840000)) = some 0x00000041#32 := by decide
/-- Vector X6: a read presented while PIN_FAULT is set: MDIO_STATUS in tick 12. -/
theorem test_read_while_faulted :
    (Mdioc.tick vecParams quiet (.request (readRequest 7 1)) { faulted with mdc := true }).hostRead .status =
      0x0000007C#32 := by decide
/-- Vector K1: CLK_STATUS in tick 1. -/
theorem test_start_accepted : clkStatusAfter (step (State.reset.withFetchWord 32 0x00000001)) = some 0x00000011#32 := by decide
/-- Vector K1: a second START after DONE changes nothing. -/
theorem test_start_after_done :
    Clkseq.tick vecParams ok .start { atGpout with stage := .done } = { atGpout with stage := .done } := by decide

/-! ## One tick of each block -/

/-- Vector T3: the release of the line: MDIO_STATUS in tick 93. -/
theorem test_read_releases_line :
    (Mdioc.tick vecParams quiet .none readAddressed).hostRead .status = 0x00002E51#32 := by decide
/-- Vector T3: the last sample, 1, and completion: tick 129. -/
theorem test_read_completes :
    (Mdioc.tick vecParams quiet .none readEnding).hostRead .rdata = 0x0000786D#32 ∧
    (Mdioc.tick vecParams quiet .none readEnding).hostRead .status = 0x00000072#32 := by decide
/-- Vector X7: the abort wins over completion. -/
theorem test_abort_wins :
    (Mdioc.tick vecParams pinBad .none readEnding).hostRead .status = 0x00000078#32 ∧
    (Mdioc.tick vecParams pinBad .none readEnding).hostRead .rdata = 0x00000000#32 := by decide
/-- Vector X4: completion wins over the host's clear of DONE. -/
theorem test_set_wins :
    (Mdioc.tick vecParams quiet (.status 0x00000002#32) readEnding).hostRead .status = 0x00000072#32 := by decide
/-- Vector X5, its clamped row and its truncated row. -/
theorem test_div_clamps :
    ((Mdioc.reset vecParams).writeDiv vecParams 0xFFFF0000#32).hostRead .div = 0x00000001#32 ∧
    ((Mdioc.reset vecParams).writeDiv vecParams 0x00012345#32).hostRead .div = 0x00002345#32 ∧
    ((Mdioc.reset vecParams).writeDiv { vecParams with ticksPerUnit := 100 } 0x32#32).hostRead .div = 0x64#32 := by decide
/-- Vector K6: FXOSC = 12 500 000 in stage WDT. -/
theorem test_wdt_inexact :
    let c := Clkseq.tick vecParams ok .none
      { atPllSys with stage := .wdt, plan := { Config.resetPlan with fxosc := 12500000#32 } }
    c.wdtDiv = 12#16 ∧ c.wdtOk = false ∧ c.stage = .pllSys := by decide
/-- Vector K5: VCO no multiple of FXOSC, in a tick whose answer is `ok`: CLK_STATUS from tick 4. -/
theorem test_pll_illegal :
    (Clkseq.tick vecParams ok .none
      { atPllSys with plan := { Config.resetPlan with sysVco := 1000000000#32 } }).hostRead .status = 0x000002CD#32 := by
  decide
/-- Vector K12: src = 10 and T = 3 give 2 (90_conflicts.md C7). -/
theorem test_derived_not_nearest : clkFreq 10#32 3#32 = 2#32 ∧ clkFreq 48000000#32 46875#32 = 46875#32 := by decide
/-- Vector K13: the last stage fails: CLK_STATUS from tick 12. -/
theorem test_last_stage_fails :
    (Clkseq.tick vecParams (answering .fail) .none atGpout).hostRead .status = 0x00000ACD#32 := by decide
/-- 42_clock_sequencer.md R143: the tick generator is at exactly 1 MHz with FXOSC = 12 000 000. -/
theorem test_wdt_exact (n : Nat) : atPllSys.wdtHz n = 1000000 := by
  rw [Clkseq.wdtHz_exact rfl rfl]
  norm_num [atPllSys, Clkseq.reset, vecParams, Config.resetPlan]
/-- 30_encoding.md R95: CLK.INIT. -/
theorem test_clk_init : expand (.clkInit 3) =
    some [.wr (.reg .clkseq 0) 32 1#32, .wait (.reg .clkseq 4) 4 4 0, .rd 3 (.reg .clkseq 4) 32] := by decide

/-! ## Witnesses -/

theorem vecParams_wf : vecParams.wf := ⟨by decide, by decide, by decide⟩
theorem quiet_is_quiet : quiet.quiet vecParams := ⟨rfl, rfl⟩

/-- A block of MDIOC that waits meets its invariant. -/
theorem reset_inv : (Mdioc.reset vecParams).Inv vecParams := by constructor <;> decide
theorem writeLow_inv : writeLow.Inv vecParams := by constructor <;> decide
theorem readAddressed_inv : readAddressed.Inv vecParams := by constructor <;> decide
theorem readEnding_inv : readEnding.Inv vecParams := by constructor <;> decide
theorem writeEnding_inv : writeEnding.Inv vecParams := by constructor <;> decide
theorem atXosc_inv : atXosc.Inv vecParams := by
  constructor <;> first | decide | (intro k; cases k <;> decide)
theorem atPllSys_inv : atPllSys.Inv vecParams := by
  constructor <;> first | decide | (intro k; cases k <;> decide)
theorem atPllSysInexact_inv : atPllSysInexact.Inv vecParams := by
  constructor <;> first | decide | (intro k; cases k <;> decide)
theorem atPllUsb_inv : atPllUsb.Inv vecParams := by
  constructor <;> first | decide | (intro k; cases k <;> decide)
theorem atRef_inv : atRef.Inv vecParams := by
  constructor <;> first | decide | (intro k; cases k <;> decide)
theorem atGpout_inv : atGpout.Inv vecParams := by
  constructor <;> first | decide | (intro k; cases k <;> decide)

theorem witness_EncodeOfDecodeGivesWord :
    (∃ w i, decode .mdioCmd w = .instr i) ∧ ∃ w i, decode .clkCtrl w = .instr i :=
  ⟨⟨0x6FFFFFFF#32, _, rfl⟩, ⟨0xFFFFFFFF#32, _, rfl⟩⟩

theorem witness_EveryWordHasOneDecoding :
    (0x6FFFFFFF#32).extractLsb' 28 4 = 0b0110#4 ∧ (0x50000000#32).extractLsb' 28 4 = 0b0101#4 ∧
    ((0x40000000#32).extractLsb' 28 4 ≠ 0b0110#4 ∧ (0x40000000#32).extractLsb' 28 4 ≠ 0b0101#4) ∧
    ((0x7FFFFFFF#32).extractLsb' 28 4 ≠ 0b0110#4 ∧ (0x7FFFFFFF#32).extractLsb' 28 4 ≠ 0b0101#4) ∧
    (0x00000001#32).getLsbD 0 = true ∧ (0xFFFFFFFE#32).getLsbD 0 = false := by decide

/-- The accepted and the rejected case. -/
theorem witness_WriteToCmdIsAcceptedOrRejected (w : Word) :
    let s := hostDoes (.wr (.reg .mdioc 0x00) 32 w) .mdioc
    s.writesNext .mdioc 0x00 w [] ∧ s.env.nextMdio.rst = false ∧ s.mdioc.mstate = .idle ∧ s.mdioc.pinFault = false ∧
    (0x60000000#32).extractLsb' 28 4 = 0b0110#4 ∧ (0x5FFFFFFF#32).extractLsb' 28 4 = 0b0101#4 ∧
    ¬ ((0x70000000#32).extractLsb' 28 4 = 0b0110#4 ∨ (0x70000000#32).extractLsb' 28 4 = 0b0101#4) :=
  ⟨⟨rfl, rfl⟩, rfl, rfl, rfl, by decide, by decide, by decide⟩

theorem witness_AcceptedReadStartsTransaction :
    State.reset.mdioc.mstate = .idle ∧ State.reset.mdioc.pinFault = false ∧ State.reset.env.nextMdio.rst = false :=
  ⟨rfl, rfl, rfl⟩

theorem witness_AcceptedWriteStartsTransaction :
    State.reset.mdioc.mstate = .idle ∧ State.reset.mdioc.pinFault = false ∧ State.reset.env.nextMdio.rst = false :=
  ⟨rfl, rfl, rfl⟩

/-- Each of the three causes. -/
theorem witness_RejectedCommandOnlySetsCmdErr :
    quiet.rst = false ∧ (MdioAct.request (readRequest 0 0)).isCommand = true ∧ MdioAct.reserved.isCommand = true ∧
    writeLow.mstate ≠ .idle ∧ faulted.pinFault = true ∧ (Mdioc.reset vecParams).mstate = .idle := by decide

theorem witness_RejectedInstructionLeavesTransaction :
    ∃ s t : State, s.env.nextMdio.rst = false ∧ s.mdioc.mstate ≠ .idle ∧ t.env.nextMdio.rst = false ∧
      t.mdioc.mstate = .idle ∧ t.mdioc.pinFault = true :=
  ⟨{ State.reset with mdioc := writeLow }, { State.reset with mdioc := faulted }, rfl, nofun, rfl, rfl, rfl⟩

theorem witness_ResetTickGivesResetState :
    ∃ s : State, s.env.nextMdio.rst = true ∧ s.env.nextSeq.rst = true ∧ s.env.mdioDraw.rst = true ∧ s.env.seqDraw.rst = true :=
  ⟨{ State.reset with
      env := { clocks := [], mdioIn := [{ rst := true, line := none, pinErr := none }],
               seqIn := [{ rst := true, answer := none }], mdioTicks := 0, seqTicks := 0 } }, rfl, rfl, rfl, rfl⟩

/-- Inside the phase and at its end; a run shorter than the phase and one of its length. -/
theorem witness_LowPhaseLastsHalfTicks :
    quiet.quiet vecParams ∧ writeLow.mstate = .low ∧ writeLow.half.toNat ≤ writeLow.cnt.toNat + 1 ∧
    (let m := { writeLow with half := 2#16 }
     m.mstate = .low ∧ m.cnt.toNat + 1 < m.half.toNat ∧ m.cnt = 0#16 ∧ 1 ≤ m.half.toNat ∧
     ([(quiet, MdioAct.none)] : List _).length < m.half.toNat ∧
     [(quiet, MdioAct.none), (quiet, .none)].length = m.half.toNat) := ⟨quiet_is_quiet, by decide⟩

/-- Inside the phase, at the end of cell 63 and at the end of another cell. -/
theorem witness_HighPhaseEndsInNextCellOrCompletion :
    quiet.quiet vecParams ∧
    (readEnding.mstate = .high ∧ readEnding.cell = 63#6 ∧ readEnding.half.toNat ≤ readEnding.cnt.toNat + 1) ∧
    (readAddressed.mstate = .high ∧ readAddressed.cell ≠ 63#6 ∧ readAddressed.half.toNat ≤ readAddressed.cnt.toNat + 1) ∧
    (let m := { readEnding with half := 2#16 }
     m.mstate = .high ∧ m.cnt.toNat + 1 < m.half.toNat ∧ m.cnt = 0#16 ∧ 1 ≤ m.half.toNat ∧
     ([(quiet, MdioAct.none)] : List _).length < m.half.toNat ∧
     [(quiet, MdioAct.none), (quiet, .none)].length = m.half.toNat) := ⟨quiet_is_quiet, by decide⟩

/-- A read and a write, and the cells where the map's rows meet. -/
theorem witness_FrameFollowsCellMap :
    readEnding.op = .rd ∧ writeLow.op = .wr ∧ (31#6).toNat < 32 ∧ 36 ≤ (36#6).toNat ∧ (40#6).toNat ≤ 40 ∧
    41 ≤ (41#6).toNat ∧ (45#6).toNat ≤ 45 ∧ 46 ≤ (46#6).toNat ∧ 48 ≤ (48#6).toNat := by decide

/-- The start, the last busy tick and the completion, with the least half-cell. -/
theorem witness_TransactionTimingIsExact :
    (∀ n, ∀ i ∈ List.replicate n (quiet, MdioAct.none), i.1.quiet vecParams) ∧ 1 ≤ (Mdioc.reset vecParams).div.toNat ∧
    (List.replicate 0 (quiet, MdioAct.none)).length < 128 * (Mdioc.reset vecParams).div.toNat ∧
    (List.replicate 127 (quiet, MdioAct.none)).length < 128 * (Mdioc.reset vecParams).div.toNat ∧
    (List.replicate 128 (quiet, MdioAct.none)).length = 128 * (Mdioc.reset vecParams).div.toNat :=
  ⟨fun _ i hi => by rw [List.eq_of_mem_replicate hi]; exact quiet_is_quiet, by decide, by rw [List.length_replicate]; decide,
    by rw [List.length_replicate]; decide, by rw [List.length_replicate]; decide⟩

theorem witness_WireCarriesFrame :
    (∀ i ∈ List.replicate 127 (quiet, MdioAct.none), i.1.quiet vecParams) ∧ 1 ≤ (Mdioc.reset vecParams).div.toNat ∧
    (List.replicate 127 (quiet, MdioAct.none)).length < 128 * (Mdioc.reset vecParams).div.toNat ∧
    (readRequest 7 1).op = .rd ∧ (writeRequest 0 4 0x01E1).op = .wr :=
  ⟨fun i hi => by rw [List.eq_of_mem_replicate hi]; exact quiet_is_quiet, by decide, by rw [List.length_replicate]; decide,
    rfl, rfl⟩

/-- The first and the last data cell. -/
theorem witness_ReadReturnsSixteenSamples :
    let ins := List.replicate 128 (quiet, MdioAct.none)
    (∀ i ∈ ins, i.1.quiet vecParams) ∧ 1 ≤ (Mdioc.reset vecParams).div.toNat ∧
    ins.length = 128 * (Mdioc.reset vecParams).div.toNat ∧
    ins[(2 * 48 + 2) * (Mdioc.reset vecParams).div.toNat - 1]? = some (quiet, .none) ∧
    ins[(2 * 63 + 2) * (Mdioc.reset vecParams).div.toNat - 1]? = some (quiet, .none) :=
  ⟨fun i hi => by rw [List.eq_of_mem_replicate hi]; exact quiet_is_quiet, by decide, by rw [List.length_replicate]; decide,
    List.getElem?_replicate_of_lt (by decide), List.getElem?_replicate_of_lt (by decide)⟩

theorem witness_ReadDataChangesOnlyAtReadCompletion :
    quiet.rst = false ∧ (Mdioc.tick vecParams quiet .none readEnding).rdata ≠ readEnding.rdata := by decide

/-- Each event: a completion, an accepted command, a pin failure, and a clear of each flag. -/
theorem witness_StickyFlagsFollowTheirEvents :
    quiet.rst = false ∧ pinBad.rst = false ∧ (vecParams.pinFallible && pinBad.pinErr) = true ∧
    (readEnding.mstate = .high ∧ readEnding.cell = 63#6 ∧ readEnding.half.toNat ≤ readEnding.cnt.toNat + 1 ∧
      (vecParams.pinFallible && quiet.pinErr) = false) ∧
    ((Mdioc.reset vecParams).mstate = .idle ∧ (Mdioc.reset vecParams).pinFault = false) ∧
    (0x00000002#32).getLsbD 1 = true ∧ (0x00000004#32).getLsbD 2 = true := by decide

/-- A write to MDIO_DIV in the last busy tick of a transaction, and one in the tick before it; then a command is accepted. -/
theorem witness_DivWriteIsClampedAndDeferred :
    vecParams.wf ∧ quiet.rst = false ∧ (∀ w, MdioAct.none ≠ .div w) ∧
    (∀ i ∈ [(quiet, MdioAct.none)], i.1.rst = false ∧ ∀ w, i.2 ≠ .div w) ∧
    (let t := Mdioc.run vecParams [] (Mdioc.tick vecParams quiet (.div 4#32) writeEnding)
     t.mstate = .idle ∧ t.pinFault = false) ∧
    (let t := Mdioc.run vecParams [(quiet, .none)]
      (Mdioc.tick vecParams quiet (.div 4#32) { writeEnding with half := 2#16 })
     t.mstate = .idle ∧ t.pinFault = false) := by
  refine ⟨vecParams_wf, rfl, nofun, fun i hi => ?_, ⟨by decide, by decide⟩, by decide, by decide⟩
  obtain rfl := List.mem_singleton.mp hi
  exact ⟨rfl, nofun⟩

/-- A busy tick in which the failure counts, an IDLE one, a pin layer that cannot fail, and a block whose PIN_FAULT is set. -/
theorem witness_PinFaultAbortsTransaction :
    pinBad.rst = false ∧ writeLow.mstate ≠ .idle ∧ vecParams.pinFallible = true ∧ pinBad.pinErr = true ∧
    (Mdioc.reset vecParams).mstate = .idle ∧ ({ vecParams with pinFallible := false } : Params).pinFallible = false ∧
    faulted.pinFault = true ∧ faulted.mstate = .idle ∧ MdioAct.reserved.isCommand = true ∧
    ∀ v, MdioAct.none ≠ .status v :=
  ⟨rfl, nofun, rfl, rfl, rfl, rfl, rfl, rfl, rfl, nofun⟩

/-- Each switch: reset, the first cell, cell 46 of a read, and an abort. -/
theorem witness_RoleSwitchesOnlyAtFrameBoundaries :
    ((Mdioc.reset vecParams).Inv vecParams ∧
      (Mdioc.tick vecParams quiet (.request (readRequest 7 1)) (Mdioc.reset vecParams)).mdioRole = .out) ∧
    (readAddressed.Inv vecParams ∧
      (Mdioc.tick vecParams quiet .none readAddressed).mdioRole ≠ readAddressed.mdioRole ∧
      (Mdioc.tick vecParams quiet .none readAddressed).cell = 46#6 ∧
      (Mdioc.tick vecParams pinBad .none readAddressed).mdioRole ≠ readAddressed.mdioRole ∧
      (Mdioc.tick vecParams { quiet with rst := true } .none readAddressed).mdioRole ≠ readAddressed.mdioRole) :=
  ⟨⟨reset_inv, by decide⟩, readAddressed_inv, by decide, by decide, by decide, by decide⟩

/-- The completion of a read and of a write, an IDLE tick that accepts nothing and one that accepts a command. -/
theorem witness_LinesKeepTheirLevelsBetweenTransactions :
    (readEnding.Inv vecParams ∧ readEnding.mstate ≠ .idle ∧ (Mdioc.tick vecParams quiet .none readEnding).mstate = .idle) ∧
    (writeEnding.Inv vecParams ∧ writeEnding.mstate ≠ .idle ∧
      (Mdioc.tick vecParams quiet .none writeEnding).mstate = .idle) ∧
    quiet.quiet vecParams ∧ (Mdioc.reset vecParams).mstate = .idle ∧
    (Mdioc.tick vecParams quiet .none (Mdioc.reset vecParams)).mstate = .idle ∧
    (Mdioc.tick vecParams quiet (.request (readRequest 7 1)) (Mdioc.reset vecParams)).mstate ≠ .idle :=
  ⟨⟨readEnding_inv, by decide, by decide⟩, ⟨writeEnding_inv, by decide, by decide⟩, quiet_is_quiet, by decide, by decide,
    by decide⟩

theorem witness_MdiocResetState : vecParams.wf := vecParams_wf

theorem witness_LineLevelReachesOnlyReadData :
    [(quiet, MdioAct.none), (quiet, .none)].length = [true, false].length := rfl

/-- START in IDLE and outside it, no access in IDLE, and a CLK_CTRL write with bit 0 = 0 (E3). -/
theorem witness_StartBeginsSequenceOnlyFromIdle :
    (State.reset.env.nextSeq.rst = false ∧ State.reset.clkseq.stage = .idle) ∧
    (∃ s : State, s.env.nextSeq.rst = false ∧ s.clkseq.stage ≠ .idle) ∧
    (ok.rst = false ∧ (Clkseq.reset vecParams).stage = .idle) ∧
    (hostDoes (.wr (.reg .clkseq 0x00) 32 0xFFFFFFFE#32) .clkseq).writesNext .clkseq 0x00 0xFFFFFFFE#32 [] ∧
    (0xFFFFFFFE#32).getLsbD 0 = false :=
  ⟨⟨rfl, rfl⟩, ⟨{ State.reset with clkseq := atGpout }, rfl, nofun⟩, ⟨rfl, rfl⟩, ⟨rfl, rfl⟩, by decide⟩

/-- FXOSC = 0 and FXOSC not 0, with each answer. -/
theorem witness_OscillatorStage :
    ok.rst = false ∧ atXosc.stage = .xosc ∧ atXosc.plan.fxosc ≠ 0#32 ∧
    ({ atXosc with plan := { Config.resetPlan with fxosc := 0#32 } } : Clkseq).plan.fxosc = 0#32 ∧
    ∀ a, (answering a).rst = false ∧ (answering a).answer = a :=
  ⟨rfl, rfl, by decide, rfl, fun _ => ⟨rfl, rfl⟩⟩

theorem witness_WatchdogStage : ok.rst = false ∧ ({ atXosc with stage := .wdt } : Clkseq).stage = .wdt := ⟨rfl, rfl⟩

/-- A legal plan (the reset plan), an illegal one (vector K4), and each answer. -/
theorem witness_SystemPllStage :
    ok.rst = false ∧ atPllSys.stage = .pllSys ∧
    pllLegal vecParams atPllSys.plan.fxosc atPllSys.plan.sysVco atPllSys.plan.sysDiv = true ∧
    pllLegal vecParams atPllSys.plan.fxosc atPllSys.plan.sysVco (pllDivOfWord 0x00003500#32) = false ∧
    ∀ a, (answering a).rst = false ∧ (answering a).answer = a :=
  ⟨rfl, rfl, by decide, by decide, fun _ => ⟨rfl, rfl⟩⟩

/-- A legal plan, an illegal one (vector K6b), and each answer. -/
theorem witness_UsbPllStage :
    ok.rst = false ∧ atPllUsb.stage = .pllUsb ∧
    pllLegal vecParams atPllUsb.plan.fxosc atPllUsb.plan.usbVco atPllUsb.plan.usbDiv = true ∧
    pllLegal vecParams atPllUsb.plan.fxosc atPllUsb.plan.usbVco (pllDivOfWord 0x00000501#32) = false ∧
    ∀ a, (answering a).rst = false ∧ (answering a).answer = a :=
  ⟨rfl, rfl, by decide, by decide, fun _ => ⟨rfl, rfl⟩⟩

/-- The first and the last derived clock; a target equal to its source, one above it (vector K8), one of 0 (vector K7). -/
theorem witness_DerivedClockStages :
    ok.rst = false ∧ atRef.stage = .clk .ref ∧ atGpout.stage = .clk .gpout ∧
    clkLegal 12000000#32 12000000#32 = true ∧ clkLegal 12000000#32 13000000#32 = false ∧
    clkLegal 48000000#32 0#32 = false ∧ ∀ a, (answering a).rst = false ∧ (answering a).answer = a :=
  ⟨rfl, rfl, rfl, by decide, by decide, by decide, fun _ => ⟨rfl, rfl⟩⟩

theorem witness_StagesRunInOrder :
    ok.rst = false ∧ ({ atXosc with stage := .wdt } : Clkseq).stage = .wdt ∧ (Clkseq.reset vecParams).stage = .idle :=
  ⟨rfl, rfl, rfl⟩

/-- A failure at each kind of stage, in a state that meets the invariant; and the FAILED stage. -/
theorem witness_FailureStopsAtTheFailedStage :
    (answering .fail).rst = false ∧
    (atXosc.Inv vecParams ∧ (Clkseq.tick vecParams (answering .fail) .none atXosc).stage = .failed) ∧
    (atPllSys.Inv vecParams ∧ (Clkseq.tick vecParams (answering .fail) .none atPllSys).stage = .failed) ∧
    (atPllUsb.Inv vecParams ∧ (Clkseq.tick vecParams (answering .fail) .none atPllUsb).stage = .failed) ∧
    (atRef.Inv vecParams ∧ (Clkseq.tick vecParams (answering .fail) .none atRef).stage = .failed) ∧
    (atGpout.Inv vecParams ∧ (Clkseq.tick vecParams (answering .fail) .none atGpout).stage = .failed) ∧
    ∃ c : Clkseq, c.stage = .failed ∧ ∀ i ∈ [(ok, SeqAct.start)], i.1.rst = false :=
  ⟨rfl, ⟨atXosc_inv, by decide⟩, ⟨atPllSys_inv, by decide⟩, ⟨atPllUsb_inv, by decide⟩, ⟨atRef_inv, by decide⟩,
    ⟨atGpout_inv, by decide⟩, { atXosc with stage := .failed, err := some .oscillatorStartFailed }, rfl, by decide⟩

theorem witness_SequenceRunsAtMostOnce :
    (∀ i ∈ [(ok, SeqAct.start)], i.1.rst = false) ∧ atXosc.stage ≠ .idle ∧
    ({ atGpout with stage := .done } : Clkseq).stage = .done ∧ ({ atGpout with stage := .failed } : Clkseq).stage = .failed := by
  decide

theorem witness_PlanIsFrozenAfterStart :
    ok.rst = false ∧ atXosc.stage ≠ .idle ∧ (Clkseq.reset vecParams).stage = .idle ∧
    PlanReg.xoscFreq ≠ PlanReg.target .gpout := by decide

/-- Vector W1: the reset plan passes every check. -/
theorem resetPlan_legal : Plan.Legal vecParams Config.resetPlan := by
  constructor <;> first | decide | (intro k; cases k <;> decide)

/-- The whole run, with a legal plan (the reset plan) and with one that is not (vector K3). -/
theorem witness_ShortestRunTakesOneTickAStage :
    (∀ i ∈ List.replicate 11 (ok, SeqAct.none), i.1.rst = false ∧ i.1.answer = .ok) ∧ atXosc.stage = .xosc ∧
    (List.replicate 11 (ok, SeqAct.none)).length = 11 ∧ Plan.Legal vecParams atXosc.plan ∧
    ¬ Plan.Legal vecParams { Config.resetPlan with fxosc := 0#32 } :=
  ⟨fun i hi => by rw [List.eq_of_mem_replicate hi]; exact ⟨rfl, rfl⟩, rfl, List.length_replicate,
    resetPlan_legal, fun h => h.fxosc rfl⟩

theorem witness_ReferencePlanFrequencies :
    vecParams.resetPlan = Config.resetPlan ∧
    ∀ fref refdiv fbdiv vco pd1 pd2, vecParams.pllExtraLegal fref refdiv fbdiv vco pd1 pd2 = true :=
  ⟨rfl, fun _ _ _ _ _ _ => rfl⟩

/-- Each of the four kinds of register is written in some state that meets the invariant. -/
theorem witness_RealizedFrequencyIsWrittenOnce :
    ok.rst = false ∧
    (atXosc.Inv vecParams ∧ (Clkseq.tick vecParams ok .none atXosc).freqXosc ≠ atXosc.freqXosc) ∧
    (atPllSys.Inv vecParams ∧ (Clkseq.tick vecParams ok .none atPllSys).freqPllSys ≠ atPllSys.freqPllSys) ∧
    (atPllUsb.Inv vecParams ∧ (Clkseq.tick vecParams ok .none atPllUsb).freqPllUsb ≠ atPllUsb.freqPllUsb) ∧
    (atRef.Inv vecParams ∧ (Clkseq.tick vecParams ok .none atRef).freqClk.ref ≠ atRef.freqClk.ref) ∧
    (atGpout.Inv vecParams ∧ (Clkseq.tick vecParams ok .none atGpout).freqClk.gpout ≠ atGpout.freqClk.gpout) :=
  ⟨rfl, ⟨atXosc_inv, by decide⟩, ⟨atPllSys_inv, by decide⟩, ⟨atPllUsb_inv, by decide⟩, ⟨atRef_inv, by decide⟩,
    ⟨atGpout_inv, by decide⟩⟩

/-- A target that divides its source, one that does not (vector K9), and the least target. -/
theorem witness_DerivedClockNeverAboveTarget :
    clkLegal 48000000#32 46875#32 = true ∧ (46875#32).toNat ∣ (48000000#32).toNat ∧
    clkLegal 12000000#32 7000000#32 = true ∧ clkLegal 12000000#32 1#32 = true ∧ clkLegal 0xFFFFFFFF#32 0xFFFFFFFF#32 = true ∧
    1 ≤ ceilDiv (12000000#32).toNat (7000000#32).toNat := by decide

/-- The exact case, and the inexact one of vector K6. -/
theorem witness_WatchdogTicksAtOneMegahertz :
    (atPllSys.Inv vecParams ∧ atPllSys.wdtOk = true) ∧
    (atPllSysInexact.Inv vecParams ∧ atPllSysInexact.wdtProgrammed = true ∧ atPllSysInexact.wdtOk = false ∧
      1 ≤ atPllSysInexact.wdtDiv.toNat) :=
  ⟨⟨atPllSys_inv, rfl⟩, atPllSysInexact_inv, rfl, rfl, by decide⟩

/-- Each of the three reasons by offset: past the window (a write), 16 bits (a read), misaligned (a WAIT); and by address, a
misaligned address of either window (the bases are multiples of 256). -/
theorem witness_UnadmittedAccessIsRefused :
    ((hostDoes (.wr (.reg .mdioc 0x100) 32 0#32) .mdioc).host.todo = .wr (.reg .mdioc 0x100) 32 0#32 :: [] ∧
      0x100 ≤ 0x100) ∧
    ((hostDoes (.rd 0 (.reg .clkseq 0x04) 16) .mdioc).host.todo = .rd 0 (.reg .clkseq 0x04) 16 :: [] ∧ 16 ≠ 32) ∧
    ((hostDoes (.wait (.reg .mdioc 0x06) 0 0 0) .mdioc).host.todo = .wait (.reg .mdioc 0x06) 0 0 0 :: [] ∧ 0x06 % 4 ≠ 0) ∧
    (∀ addr, (hostDoes (.rd 0 (.mem addr) 32) .mdioc).host.todo = .rd 0 (.mem addr) 32 :: []) ∧
    (∃ addr, (∃ o < 0x100, addr = Config.params.mdiocBase + o ∨ addr = Config.params.clkseqBase + o) ∧ addr % 4 ≠ 0) ∧
    ∃ addr, (∃ o < 0x100, addr = Config.params.mdiocBase + o ∨ addr = Config.params.clkseqBase + o) ∧ addr % 4 ≠ 0 := by
  have hm : Config.params.mdiocBase = 256 * Config.params.mdiocPage := rfl
  have hc : Config.params.clkseqBase = 256 * Config.params.clkseqPage := rfl
  refine ⟨⟨rfl, by decide⟩, ⟨rfl, by decide⟩, ⟨rfl, by decide⟩, fun _ => rfl,
    ⟨Config.params.mdiocBase + 0xFE, ⟨0xFE, by decide, .inl rfl⟩, by omega⟩,
    ⟨Config.params.clkseqBase + 1, ⟨1, by decide, .inr rfl⟩, by omega⟩⟩

/-- The first and the last unmapped offset of each window. -/
theorem witness_UnmappedOffsetsReadZeroIgnoreWrites :
    (0x10 % 4 = 0 ∧ 0x0C < 0x10 ∧ 0x64 % 4 = 0 ∧ 0x60 < 0x64 ∧ 0xFC % 4 = 0 ∧ 0xFC < 0x100) ∧
    (hostDoes (.wr (.reg .mdioc 0x10) 32 1#32) .mdioc).writesNext .mdioc 0x10 1#32 [] ∧
    (hostDoes (.wr (.reg .clkseq 0x64) 32 1#32) .clkseq).writesNext .clkseq 0x64 1#32 [] :=
  ⟨by decide, ⟨rfl, rfl⟩, ⟨rfl, rfl⟩⟩

/-- A write to the first and to the last register of each table. -/
theorem witness_RegistersStandAtTheirOffsets (v : Word) :
    (hostDoes (.wr (.reg .mdioc 0x04) 32 v) .mdioc).writesNext .mdioc 0x04 v [] ∧
    (hostDoes (.wr (.reg .mdioc 0x0C) 32 v) .mdioc).writesNext .mdioc 0x0C v [] ∧
    (hostDoes (.wr (.reg .clkseq 0x00) 32 v) .clkseq).writesNext .clkseq 0x00 v [] ∧
    (hostDoes (.wr (.reg .clkseq 0x04) 32 v) .clkseq).writesNext .clkseq 0x04 v [] ∧
    (hostDoes (.wr (.reg .clkseq 0x60) 32 v) .clkseq).writesNext .clkseq 0x60 v [] ∧ (0xFFFFFFFE#32).getLsbD 0 = false :=
  ⟨⟨rfl, rfl⟩, ⟨rfl, rfl⟩, ⟨rfl, rfl⟩, ⟨rfl, rfl⟩, ⟨rfl, rfl⟩, by decide⟩

/-- The last offset of a window, and an address past both windows. -/
theorem witness_AddressesNameTheSameRegisters :
    vecParams.wf ∧ 0xFF < 0x100 ∧ ∀ o < 0x100, 0x200 ≠ vecParams.mdiocBase + o ∧ 0x200 ≠ vecParams.clkseqBase + o := by
  refine ⟨vecParams_wf, by decide, fun o ho => ?_⟩
  show 0x200 ≠ 0 + o ∧ 0x200 ≠ 0x100 + o
  omega

theorem witness_StepRunsDecodedInstruction :
    ((hostDoes (.wr (.reg .mdioc 0x00) 32 0x501201E1#32) .mdioc).writesNext .mdioc 0x00 0x501201E1#32 [] ∧
      ∃ i, decode .mdioCmd 0x501201E1#32 = .instr i) ∧
    ((hostDoes (.wr (.reg .clkseq 0x00) 32 1#32) .clkseq).writesNext .clkseq 0x00 1#32 [] ∧
      ∃ i, decode .clkCtrl 1#32 = .instr i) :=
  ⟨⟨⟨rfl, rfl⟩, _, rfl⟩, ⟨⟨rfl, rfl⟩, _, rfl⟩⟩

theorem witness_HostReadHasNoSideEffect (blk : Block) :
    let s := hostDoes (.rd 1 (.reg blk 0xFC) 32) blk
    s.host.todo = .rd 1 (.reg blk 0xFC) 32 :: [] ∧ s.env.nextClock = blk ∧ 0xFC % 4 = 0 ∧ 0xFC < 0x100 :=
  ⟨rfl, rfl, rfl, by decide⟩

/-- A field that holds its value at reset (BUSY = 0) and one that does not (bit 6, which is 1); and the last offset and field. -/
theorem witness_WaitRepeatsUntilFieldHolds :
    (hostDoes (.wait (.reg .mdioc 0x04) 0 0 0) .mdioc).host.todo = .wait (.reg .mdioc 0x04) 0 0 0 :: [] ∧
    (hostDoes (.wait (.reg .mdioc 0x04) 0 0 0) .mdioc).env.nextClock = .mdioc ∧
    (regRead State.reset .mdioc 0x04).toNat / 2 ^ 0 % 2 ^ (0 + 1 - 0) = 0 ∧
    (regRead State.reset .mdioc 0x04).toNat / 2 ^ 6 % 2 ^ (6 + 1 - 6) ≠ 0 ∧
    (hostDoes (.wait (.reg .clkseq 0xFC) 31 0 0) .clkseq).host.todo = .wait (.reg .clkseq 0xFC) 31 0 0 :: [] ∧
    0xFC % 4 = 0 ∧ 0xFC < 0x100 ∧ 0 ≤ 31 ∧ 31 < 32 :=
  ⟨rfl, rfl, by decide, by decide, rfl, by decide⟩

theorem witness_StepStopsOnlyOnTheHostsAccess : ∃ s, ¬ goesOn (step s) :=
  ⟨hostDoes (.rd 0 (.reg .mdioc 0x04) 8) .mdioc, fun ⟨t, h⟩ => by
    have hr : step (hostDoes (.rd 0 (.reg .mdioc 0x04) 8) .mdioc) = .refused .unadmittedAccess := rfl
    rw [hr] at h
    cases h⟩

/-- The greatest operands in range and the least out of range. -/
theorem witness_PseudoInstructionsExpand : 31 < 32 ∧ 65535 < 65536 ∧ 32 ≤ 32 ∧ 65536 ≤ 65536 := by decide

/-- A step with an access of each block; a host with nothing to do, and one whose next access is for the other block. -/
theorem witness_BlocksDoNotInterfere :
    (∃ s t, step s = .next t ∧ s.env.nextClock = .mdioc) ∧ (∃ s t, step s = .next t ∧ s.env.nextClock = .clkseq) ∧
    State.reset.host.todo = [] ∧
    (∀ blk, { State.reset with env := { State.reset.env with clocks := [blk] } }.env.nextClock = blk) ∧
    (let s := hostDoes (.rd 0 (.reg .clkseq 0x04) 32) .mdioc
     s.host.todo = .rd 0 (.reg .clkseq 0x04) 32 :: [] ∧
      route Config.params (.reg .clkseq 0x04) 32 = .reg .clkseq 0x04 ∧ Block.clkseq ≠ s.env.nextClock) ∧
    (let s := hostDoes (.rd 0 (.reg .mdioc 0x04) 32) .clkseq
     s.host.todo = .rd 0 (.reg .mdioc 0x04) 32 :: [] ∧
      route Config.params (.reg .mdioc 0x04) 32 = .reg .mdioc 0x04 ∧ Block.mdioc ≠ s.env.nextClock) :=
  ⟨⟨hostDoes (.rd 0 (.reg .mdioc 0x04) 32) .mdioc, _, rfl, rfl⟩,
    ⟨hostDoes (.wr (.reg .clkseq 0x00) 32 1#32) .clkseq, _, rfl, rfl⟩, rfl, fun _ => rfl, ⟨rfl, rfl, nofun⟩, ⟨rfl, rfl, nofun⟩⟩

/-- Vector T3, tick 129: what the host reads in MDIO_RDATA. -/
theorem test_rdata_read : regRead { State.reset with mdioc := Mdioc.tick vecParams quiet .none readEnding } .mdioc 0x08 =
    0x0000786D#32 := by decide

/-- A state that meets the invariant and whose step, an accepted read, goes on. -/
theorem witness_StepKeepsInvariant : ∃ s t : State, s.Inv ∧ step s = .next t := by
  refine ⟨hostDoes (.wr (.reg .mdioc 0x00) 32 0x60000000#32) .mdioc, _, ⟨?_, ?_, trivial⟩, rfl⟩
  · have hdiv : (Mdioc.reset Config.params).div.toNat = Config.params.ticksPerUnit := minDiv_toNat params_wf
    constructor
    · exact hdiv.ge
    · exact fun _ => ⟨rfl, rfl⟩
    all_goals first | exact fun h => absurd rfl h | exact fun _ => rfl
  · constructor
    · exact ⟨nofun, fun _ => rfl⟩
    · exact fun _ => rfl
    · exact fun h => absurd (show 2 ≤ 0 from h) (by decide)
    · exact fun _ => ⟨rfl, rfl⟩
    · exact fun h => absurd (show 3 ≤ 0 from h) (by decide)
    · exact fun _ => rfl
    · exact fun h => absurd (show 4 ≤ 0 from h) (by decide)
    · exact fun _ => rfl
    · exact fun h => absurd (show 5 ≤ 0 from h) (by decide)
    · exact fun k _ => by cases k <;> rfl
    · exact fun k h => absurd (show 6 + clkIndex k ≤ 0 from h) (by omega)

/-- The reference PHY with the devices `present` and every register 0. -/
def phyWith (present : BitVec 5 → Bool) : RefPhy where
  present := present
  regs := fun _ _ => 0#16
  lastMdc := false
  ones := 0
  pos := 0
  shift := 0#16
  op := 0#2
  phyad := 0#5
  regad := 0#5
  level := true

/-- Any host accesses of the length of the transaction. -/
theorem witness_RoundTripThroughReferencePhy (m : Mdioc) :
    vecParams.wf ∧ (Mdioc.reset vecParams).mstate = .idle ∧ (Mdioc.reset vecParams).pinFault = false ∧
    1 ≤ (Mdioc.reset vecParams).div.toNat ∧ (phyWith fun a => a == 3#5).present 3#5 = true ∧
    (List.replicate 128 MdioAct.reserved).length = 128 * (Mdioc.reset vecParams).div.toNat ∧
    ∃ during2 : List MdioAct, during2.length = 128 * m.div.toNat :=
  ⟨vecParams_wf, rfl, rfl, by decide, by decide, by rw [List.length_replicate]; decide, List.replicate (128 * m.div.toNat) .none, List.length_replicate⟩

theorem witness_AbsentDeviceReadsAllOnes :
    vecParams.wf ∧ (Mdioc.reset vecParams).mstate = .idle ∧ (Mdioc.reset vecParams).pinFault = false ∧
    1 ≤ (Mdioc.reset vecParams).div.toNat ∧ (phyWith fun a => a == 3#5).present 4#5 = false ∧
    128 = 128 * (Mdioc.reset vecParams).div.toNat :=
  ⟨vecParams_wf, rfl, rfl, by decide, by decide, by decide⟩

theorem witness_ElapsedTimeSurvivesWrap : 2 ^ 32 - 1 < 2 ^ vecParams.microsWidth ∧ 0 < 2 ^ vecParams.microsWidth := by decide

end Sys2Proof.Tests
end

/-! PROOFS. Family 10_state.md: the plan freeze of CLKSEQ (O38), the clamp and latching of MDIO_DIV (O22), the reset state of
MDIOC (O26), each with the facts about the operations it needs. -/

namespace Sys2Proof.Machine

/-! ## The plan registers (10_state.md R34 to R37, R40) -/

@[simp] theorem Clkseq.hostRead_plan (c : Clkseq) (r : PlanReg) : c.hostRead (.plan r) = Plan.read c.plan r := rfl

/-- The fields a divider register stores lie side by side in its lower half, and the reserved bits read 0 (R36). -/
theorem pllDivWord_ofWord (v : Word) : pllDivWord (pllDivOfWord v) = v &&& 0x0000FFFF#32 := by
  have hmask : 0x0000FFFF#32 = (BitVec.allOnes 16).setWidth 32 := rfl
  refine BitVec.eq_of_getLsbD_eq fun i hi => ?_
  simp only [pllDivWord, pllDivOfWord, hmask, BitVec.getLsbD_append, BitVec.getLsbD_extractLsb', BitVec.getLsbD_and,
    BitVec.getLsbD_setWidth, BitVec.getLsbD_allOnes]
  split_ifs with hRefdiv hPd1 hPd2
  · have hlow : i < 16 := by omega
    simp [hRefdiv, hlow, hi]
  · have hlow : i < 16 := by omega
    have hbit : 8 + (i - 8) = i := by omega
    simp [hPd1, hlow, hi, hbit]
  · have hlow : i < 16 := by omega
    have hbit : 12 + (i - 8 - 4) = i := by omega
    simp [hPd2, hlow, hi, hbit]
  · have hhigh : ¬ i < 16 := by omega
    simp [hhigh]

/-- A plan register reads back what was written to it; the reserved bits of a divider register read 0 (R34 to R37). -/
theorem Plan.read_write_same (p : Plan) (r : PlanReg) (v : Word) :
    Plan.read (Plan.write p r v) r = if r = .sysDiv ∨ r = .usbDiv then v &&& 0x0000FFFF#32 else v := by
  cases r with
  | sysDiv => exact pllDivWord_ofWord v
  | usbDiv => exact pllDivWord_ofWord v
  | target k => exact perClkGet_set_same p.target k v
  | xoscFreq => rfl
  | sysVco => rfl
  | usbVco => rfl

/-- The plan registers are separate: the written clock is the only target of the seven that changes. -/
theorem Plan.read_write_other (p : Plan) {r r' : PlanReg} (v : Word) (h : r' ≠ r) :
    Plan.read (Plan.write p r v) r' = Plan.read p r' := by
  cases r with
  | target k => cases r' with
    | target j => exact perClkGet_set_other p.target v fun hjk => h (congrArg PlanReg.target hjk)
    | _ => rfl
  | xoscFreq => cases r' with
    | xoscFreq => exact absurd rfl h
    | _ => rfl
  | sysVco => cases r' with
    | sysVco => exact absurd rfl h
    | _ => rfl
  | sysDiv => cases r' with
    | sysDiv => exact absurd rfl h
    | _ => rfl
  | usbVco => cases r' with
    | usbVco => exact absurd rfl h
    | _ => rfl
  | usbDiv => cases r' with
    | usbDiv => exact absurd rfl h
    | _ => rfl

/-! ## The stages and the plan -/

/-- An IDLE tick is the host's access alone. -/
theorem Clkseq.tick_idle (P : Params) {d : SeqDraw} (a : SeqAct) {c : Clkseq} (h : d.rst = false) (hs : c.stage = .idle) :
    c.tick P d a = c.idleTick a := by
  simp [Clkseq.tick, h, hs]

/-- Outside IDLE no stage looks at the host's access. -/
theorem Clkseq.tick_access_irrel (P : Params) (d : SeqDraw) (a b : SeqAct) {c : Clkseq} (hs : c.stage ≠ .idle) :
    c.tick P d a = c.tick P d b := by
  cases h : c.stage with
  | idle => exact absurd h hs
  | _ => simp [Clkseq.tick, h]

@[simp] theorem Clkseq.xoscTick_plan (c : Clkseq) (ans : Answer) : (c.xoscTick ans).plan = c.plan := by
  obtain ⟨-, h⟩ | ⟨-, -, h⟩ | ⟨-, -, h⟩ | ⟨-, -, h⟩ := c.xoscTick_cases ans <;> rw [h] <;> rfl

@[simp] theorem Clkseq.wdtTick_plan (c : Clkseq) : c.wdtTick.plan = c.plan := rfl

@[simp] theorem Clkseq.pllSysTick_plan (P : Params) (c : Clkseq) (ans : Answer) : (c.pllSysTick P ans).plan = c.plan := by
  obtain ⟨-, h⟩ | ⟨-, -, h⟩ | ⟨-, -, h⟩ | ⟨-, -, h⟩ := c.pllSysTick_cases P ans <;> rw [h] <;> rfl

@[simp] theorem Clkseq.pllUsbTick_plan (P : Params) (c : Clkseq) (ans : Answer) : (c.pllUsbTick P ans).plan = c.plan := by
  obtain ⟨-, h⟩ | ⟨-, -, h⟩ | ⟨-, -, h⟩ | ⟨-, -, h⟩ := c.pllUsbTick_cases P ans <;> rw [h] <;> rfl

@[simp] theorem Clkseq.clkTick_plan (c : Clkseq) (k : DClk) (ans : Answer) : (c.clkTick k ans).plan = c.plan := by
  obtain ⟨-, h⟩ | ⟨-, -, h⟩ | ⟨-, -, h⟩ | ⟨-, -, h⟩ := c.clkTick_cases k ans <;> rw [h] <;> rfl

/-- The stages read the plan and never write it (R40). -/
theorem Clkseq.tick_plan_of_running (P : Params) {d : SeqDraw} (a : SeqAct) {c : Clkseq} (hr : d.rst = false)
    (hs : c.stage ≠ .idle) : (c.tick P d a).plan = c.plan := by
  cases h : c.stage with
  | idle => exact absurd h hs
  | _ => simp [Clkseq.tick, hr, h]

/-- Settles O38: outside IDLE the access is not looked at and the stages keep the plan; in IDLE the tick is the plan write. -/
theorem planIsFrozenAfterStart : Obligations.PlanIsFrozenAfterStart := by
  intro P d c r v hr
  refine ⟨fun hs => ⟨c.tick_access_irrel P d _ _ hs, fun a => c.tick_plan_of_running P a hr hs⟩, fun hs => ?_⟩
  have htick : c.tick P d (.plan r v) = { c with plan := Plan.write c.plan r v } := c.tick_idle P _ hr hs
  simp only [htick, Clkseq.hostRead_plan]
  exact ⟨trivial, Plan.read_write_same c.plan r v, fun r' hr' => Plan.read_write_other c.plan v hr'⟩

/-! ## MDIO_DIV and the running half-cell length (10_state.md R28, 41_mdio_transactions.md R114) -/

theorem Mdioc.hostRead_div_toNat (m : Mdioc) : (m.hostRead .div).toNat = m.div.toNat :=
  BitVec.toNat_setWidth_of_le (by decide)

/-- The clamp of R28 in numbers, for legal parameters. -/
theorem Mdioc.writeDiv_div_toNat {P : Params} (h : P.wf) (m : Mdioc) (v : Word) :
    (m.writeDiv P v).div.toNat = max (v.toNat % 65536) P.ticksPerUnit := by
  rw [Mdioc.writeDiv_toNat, minDiv_toNat h, BitVec.extractLsb'_toNat]
  rfl

@[simp] theorem Mdioc.sample_div (m : Mdioc) (b : Bool) : (m.sample b).div = m.div := by
  rw [Mdioc.sample_eq]

@[simp] theorem Mdioc.sample_half (m : Mdioc) (b : Bool) : (m.sample b).half = m.half := by
  rw [Mdioc.sample_eq]

/-- A running transaction changes neither MDIO_DIV nor its own half-cell length. -/
theorem Mdioc.advance_div_half (m : Mdioc) (b : Bool) :
    (m.advance b).div = m.div ∧ (m.advance b).half = m.half := by
  cases hm : m.mstate with
  | idle => simp [Mdioc.advance, hm]
  | low =>
    simp only [Mdioc.advance, hm]
    obtain ⟨-, h⟩ | ⟨-, h⟩ := m.lowTick_cases <;> simp [h]
  | high =>
    simp only [Mdioc.advance, hm]
    obtain ⟨-, h⟩ | ⟨-, -, h⟩ | ⟨-, -, h⟩ := m.highTick_cases b <;> simp [h]

/-- MDIO_DIV has no part in the running transaction: writing it and advancing commute (R114). -/
theorem Mdioc.advance_writeDiv (P : Params) (m : Mdioc) (v : Word) (b : Bool) :
    (m.writeDiv P v).advance b = (m.advance b).writeDiv P v := by
  cases hm : m.mstate with
  | idle => simp [Mdioc.advance, hm]
  | low =>
    simp only [Mdioc.advance, Mdioc.writeDiv_mstate, hm, Mdioc.lowTick, Mdioc.writeDiv_cnt, Mdioc.writeDiv_half]
    split <;> rfl
  | high =>
    simp only [Mdioc.advance, Mdioc.writeDiv_mstate, hm, Mdioc.highTick, Mdioc.sample, Mdioc.writeDiv_cnt,
      Mdioc.writeDiv_half, Mdioc.writeDiv_cell, Mdioc.writeDiv_op]
    split_ifs <;> rfl

/-- A tick with a write to MDIO_DIV is the tick without it, and the write (R28, R114). -/
theorem Mdioc.tick_writeDiv (P : Params) {d : MdioDraw} (v : Word) (m : Mdioc) (hr : d.rst = false) :
    m.tick P d (.div v) = (m.tick P d .none).writeDiv P v := by
  by_cases hm : m.mstate = .idle
  · rw [Mdioc.tick_idle P _ hr hm, Mdioc.tick_idle P _ hr hm]
    rfl
  · cases hp : P.pinFallible && d.pinErr with
    | true =>
      rw [Mdioc.tick_pinAbort P _ hr hm hp, Mdioc.tick_pinAbort P _ hr hm hp]
      rfl
    | false =>
      rw [Mdioc.tick_quiet P _ ⟨hr, hp⟩ hm, Mdioc.tick_quiet P _ ⟨hr, hp⟩ hm]
      exact m.advance_writeDiv P v d.line

/-- Without an access nothing is latched: `half` is kept (R101). -/
theorem Mdioc.tick_none_half (P : Params) {d : MdioDraw} (m : Mdioc) (hr : d.rst = false) :
    (m.tick P d .none).half = m.half := by
  obtain ⟨h, -⟩ | ⟨-, -, h⟩ | ⟨-, -, -, h⟩ | ⟨-, -, h⟩ := m.tick_cases P d .none
  · exact absurd (h.symm.trans hr) nofun
  · rw [h]; rfl
  · rw [h]; rfl
  · rw [h]; exact (m.advance_div_half d.line).2

/-- Of the host's stores only a write to MDIO_DIV changes it. -/
theorem Mdioc.hostStore_div_of_ne (P : Params) (m : Mdioc) {a : MdioAct} (ha : ∀ w, a ≠ .div w) :
    (m.hostStore P a).div = m.div := by
  obtain ⟨w, h, -⟩ | ⟨w, -, h⟩ | ⟨-, -, h⟩ := m.hostStore_cases P a
  · exact absurd h (ha w)
  · rw [h, Mdioc.clearFlags_div]
  · rw [h]

/-- Presenting a command reads MDIO_DIV and never writes it. -/
@[simp] theorem Mdioc.present_div (m : Mdioc) (a : MdioAct) : (m.present a).div = m.div := by
  cases a with
  | request r => cases h : m.pinFault <;> simp [Mdioc.present, h]
  | _ => rfl

/-- Only a write to MDIO_DIV or reset changes it (R28). -/
theorem Mdioc.tick_div_of_ne (P : Params) {d : MdioDraw} {a : MdioAct} (m : Mdioc) (hr : d.rst = false)
    (ha : ∀ w, a ≠ .div w) : (m.tick P d a).div = m.div := by
  have hstore := m.hostStore_div_of_ne P ha
  have hcmd : (if a.isCommand then (m.hostStore P a).reject else m.hostStore P a).div = m.div := by
    split <;> simpa using hstore
  obtain ⟨h, -⟩ | ⟨-, -, h⟩ | ⟨-, -, -, h⟩ | ⟨-, -, h⟩ := m.tick_cases P d a
  · exact absurd (h.symm.trans hr) nofun
  · rw [h, Mdioc.present_div, hstore]
  · rw [h, Mdioc.pinAbort_div, hcmd]
  · rw [h, (Mdioc.advance_div_half _ _).1, hcmd]

/-- MDIO_DIV keeps its value over any run without a write to it or reset. -/
theorem Mdioc.run_div_of_ne (P : Params) (ins : List (MdioDraw × MdioAct)) (m : Mdioc)
    (h : ∀ i ∈ ins, i.1.rst = false ∧ ∀ w, i.2 ≠ .div w) : (Mdioc.run P ins m).div = m.div := by
  induction ins generalizing m with
  | nil => rfl
  | cons i ins ih =>
    obtain ⟨⟨hr, ha⟩, hrest⟩ := List.forall_mem_cons.mp h
    rw [Mdioc.run_cons, ih _ hrest, m.tick_div_of_ne P hr ha]

/-- An accepted command latches MDIO_DIV as its half-cell length (R101). -/
theorem Mdioc.tick_request_half (P : Params) {d : MdioDraw} (r : Request) {m : Mdioc} (hr : d.rst = false)
    (hm : m.mstate = .idle) (hp : m.pinFault = false) : (m.tick P d (.request r)).half = m.div := by
  rw [Mdioc.tick_idle P _ hr hm]
  simp [Mdioc.present, Mdioc.hostStore, hp]

/-- `DIV_RESET` is `TICKS_PER_UNIT` for legal parameters (R7, R45). -/
theorem Mdioc.reset_div_toNat {P : Params} (h : P.wf) : (Mdioc.reset P).div.toNat = P.ticksPerUnit := minDiv_toNat h

/-- Settles O22: a DIV write commutes with the rest of its tick, and `div` then stays until it is latched. -/
theorem divWriteIsClampedAndDeferred : Obligations.DivWriteIsClampedAndDeferred := by
  intro P d v m hP hr
  have htick := m.tick_writeDiv P v hr
  have hdiv : (m.tick P d (.div v)).div.toNat = max (v.toNat % 65536) P.ticksPerUnit := by
    rw [htick, Mdioc.writeDiv_div_toNat hP]
  refine ⟨hdiv, ?_, ?_, ?_, fun a ha => m.tick_div_of_ne P hr ha, ?_, ?_⟩
  · rw [Mdioc.hostRead_div_toNat, hdiv]
  · rw [htick]; rfl
  · rw [htick, Mdioc.writeDiv_half, m.tick_none_half P hr]
  · intro ins d' r hins t hr' hm hp
    rw [t.tick_request_half P r hr' hm hp, Mdioc.run_div_of_ne P ins _ hins, hdiv]
  · rw [Mdioc.hostRead_div_toNat, Mdioc.reset_div_toNat hP]

/-! ## The reset state of MDIOC (10_state.md R45) -/

/-- MDIO_STATUS at reset: the line is released, with its driven level left at 1. -/
theorem Mdioc.reset_status (P : Params) : (Mdioc.reset P).hostRead .status = 0x00000050#32 := by
  simp [Mdioc.hostRead, Mdioc.status, Mdioc.cellView, Mdioc.busy, Mdioc.roleBit, Mdioc.reset]

/-- Settles O26: the items are those of `Mdioc.reset`; MDIO_DIV and MDIO_STATUS read through their lemmas. -/
theorem mdiocResetState : Obligations.MdiocResetState := by
  intro P hP
  have hdiv := Mdioc.reset_div_toNat hP
  refine ⟨rfl, rfl, rfl, rfl, rfl, rfl, rfl, rfl, rfl, rfl, hdiv, rfl, rfl, rfl, rfl, rfl, rfl, rfl,
    Mdioc.reset_status P, rfl, ?_⟩
  rw [Mdioc.hostRead_div_toNat, hdiv]

end Sys2Proof.Machine

/-! PROOFS. Family 20_memory.md: which accesses have no step (O46), with the facts about the address map and the access check
it needs. -/

namespace Sys2Proof.Machine

/-! ## The address map (20_memory.md R67) -/

/-- An address in MDIOC's window is MDIOC's register at that offset. -/
theorem route_mem_mdioc (P : Params) {off : Nat} (width : Nat) (h : off < 0x100) :
    route P (.mem (P.mdiocBase + off)) width = routeReg .mdioc off width := by
  simp [route, h]

/-- An address in CLKSEQ's window is CLKSEQ's register at that offset: legal parameters keep the windows apart. -/
theorem route_mem_clkseq {P : Params} (hP : P.wf) {off : Nat} (width : Nat) (h : off < 0x100) :
    route P (.mem (P.clkseqBase + off)) width = routeReg .clkseq off width := by
  obtain ⟨-, -, hpages⟩ := hP
  have hother : ¬ (P.mdiocBase ≤ P.clkseqBase + off ∧ P.clkseqBase + off < P.mdiocBase + 0x100) := by
    simp only [Params.mdiocBase, Params.clkseqBase]
    omega
  simp [route, hother, h]

theorem mdiocBase_add_mod_four (P : Params) (off : Nat) : (P.mdiocBase + off) % 4 = off % 4 := by
  simp only [Params.mdiocBase]
  omega

theorem clkseqBase_add_mod_four (P : Params) (off : Nat) : (P.clkseqBase + off) % 4 = off % 4 := by
  simp only [Params.clkseqBase]
  omega

/-! ## The accesses that are refused (20_memory.md R60) -/

theorem admitted_eq_false_iff (width off : Nat) :
    admitted width off = false ↔ width ≠ 32 ∨ off % 4 ≠ 0 ∨ 0x100 ≤ off := by
  simp only [admitted, Bool.and_eq_false_iff, beq_eq_false_iff_ne, decide_eq_false_iff_not, Nat.not_lt, or_assoc]

/-- An access to a window that fails one of R60's three conditions goes nowhere. -/
theorem routeReg_refused (blk : Block) {width off : Nat} (h : width ≠ 32 ∨ off % 4 ≠ 0 ∨ 0x100 ≤ off) :
    routeReg blk off width = .refused .unadmittedAccess := by
  simp [routeReg, (admitted_eq_false_iff width off).mpr h]

/-- An address inside a window fails R60 by its width or its alignment alone; the window's base is a multiple of 4. -/
theorem route_mem_refused {P : Params} (hP : P.wf) {addr width : Nat}
    (hin : ∃ o < 0x100, addr = P.mdiocBase + o ∨ addr = P.clkseqBase + o) (h : width ≠ 32 ∨ addr % 4 ≠ 0) :
    route P (.mem addr) width = .refused .unadmittedAccess := by
  obtain ⟨o, ho, rfl | rfl⟩ := hin
  · rw [mdiocBase_add_mod_four] at h
    rw [route_mem_mdioc P width ho, routeReg_refused _ (h.imp_right .inl)]
  · rw [clkseqBase_add_mod_four] at h
    rw [route_mem_clkseq hP width ho, routeReg_refused _ (h.imp_right .inl)]

/-- The step stops on the host's next operation when its access is refused, whichever block's clock is next. -/
theorem step_refused_of_route {s : State} {op : HostOp} {rest : List HostOp} {r : Refusal} (htodo : s.host.todo = op :: rest)
    (hroute : route Config.params (opTarget op) (opWidth op) = .refused r) : step s = .refused r := by
  have hfetch : fetch s = .refused r := by simp [fetch, htodo, hroute]
  simp [step, hfetch]

/-- Settles O46: the route decides it, from the target and the width alone, before the schedule is looked at. -/
theorem unadmittedAccessIsRefused : Obligations.UnadmittedAccessIsRefused := by
  intro s op t width rest htodo hop
  obtain ⟨rfl, rfl⟩ : opTarget op = t ∧ opWidth op = width := by
    obtain ⟨v, rfl⟩ | ⟨dst, rfl⟩ | ⟨rfl, hi, lo, v, rfl⟩ := hop <;> exact ⟨rfl, rfl⟩
  constructor
  · intro blk off htarget hbad
    exact step_refused_of_route htodo (by rw [htarget]; exact routeReg_refused blk hbad)
  · intro addr htarget hin hbad
    exact step_refused_of_route htodo (by rw [htarget]; exact route_mem_refused params_wf hin hbad)

end Sys2Proof.Machine

/-! PROOFS. Family 30_encoding.md: the ignored fields (O6) and the cells of the frame (O16), with what each instruction does
and what each cell carries, said once. -/

namespace Sys2Proof.Machine

/-! ## What each instruction does (30_encoding.md R89, R90) -/

theorem exec_mdioRead (phy reg : BitVec 5) (ta : BitVec 2) (data : BitVec 16) (s : State) :
    exec (.mdioRead phy reg ta data) s = .next (tickMdioc (.request (readRequest phy reg)) s) := rfl

theorem exec_mdioWrite (phy reg : BitVec 5) (ta : BitVec 2) (data : BitVec 16) (s : State) :
    exec (.mdioWrite phy reg ta data) s = .next (tickMdioc (.request (writeRequest phy reg data)) s) := rfl

theorem exec_clkseqStart (ignored : BitVec 31) (s : State) :
    exec (.clkseqStart ignored) s = .next (tickClkseq .start s) := rfl

/-- Settles O6: no ignored field reaches the command that the instruction presents. -/
theorem ignoredFieldsChangeNothing : Obligations.IgnoredFieldsChangeNothing := by
  intro s phy reg ta ta' data data' x x'
  refine ⟨?_, ?_, ?_⟩
  · rw [exec_mdioRead, exec_mdioRead]
  · rw [exec_mdioWrite, exec_mdioWrite]
  · rw [exec_clkseqStart, exec_clkseqStart]

/-! ## The cells of the frame (30_encoding.md R82) -/

/-- The master releases the line only in a read, from cell 46 on. -/
theorem Mdioc.drive_eq (m : Mdioc) (c : BitVec 6) :
    m.drive c = if m.op = .rd ∧ 46 ≤ c.toNat then .inp else .out := by
  cases hop : m.op with
  | wr => simp [Mdioc.drive, hop]
  | rd =>
    by_cases hc : c.toNat < 46
    · have hdriven : ¬ 46 ≤ c.toNat := by omega
      simp [Mdioc.drive, hop, hc, hdriven]
    · have hreleased : 46 ≤ c.toNat := by omega
      simp [Mdioc.drive, hop, hc, hreleased]

theorem Mdioc.txbit_preamble (m : Mdioc) {c : BitVec 6} (hc : c.toNat < 32) : m.txbit c = true := if_pos hc

theorem Mdioc.txbit_frame (m : Mdioc) {c : BitVec 6} (hc : 32 ≤ c.toNat) : m.txbit c = m.frame.getLsbD (63 - c.toNat) :=
  if_neg (Nat.not_lt.mpr hc)

/-- The frame word's bits, field by field (R81, R87): the latched data in a write, zeros in a read. -/
theorem Mdioc.frame_getLsbD (m : Mdioc) (i : Nat) :
    m.frame.getLsbD i =
      if i < 16 then (m.op == .wr && m.wdata.getLsbD i)
      else if i < 18 then m.op.taBits.getLsbD (i - 16)
      else if i < 23 then m.reg.getLsbD (i - 18)
      else if i < 28 then m.phy.getLsbD (i - 23)
      else if i < 30 then m.op.bits.getLsbD (i - 28)
      else (0b01#2).getLsbD (i - 30) := by
  simp only [Mdioc.frame, enc, cmdWord_getLsbD]
  by_cases hdata : i < 16
  · cases m.op with
    | wr => simp [hdata]
    | rd => simp [hdata]
  · simp only [hdata, if_false]

/-- PHYAD, most significant bit first, in cells 36 to 40. -/
theorem Mdioc.txbit_phy (m : Mdioc) {c : BitVec 6} (hlo : 36 ≤ c.toNat) (hhi : c.toNat ≤ 40) :
    m.txbit c = m.phy.getLsbD (40 - c.toNat) := by
  have hbit : 63 - c.toNat - 23 = 40 - c.toNat := by omega
  rw [m.txbit_frame (by omega), m.frame_getLsbD, if_neg (by omega), if_neg (by omega), if_neg (by omega),
    if_pos (by omega), hbit]

/-- REGAD, most significant bit first, in cells 41 to 45. -/
theorem Mdioc.txbit_reg (m : Mdioc) {c : BitVec 6} (hlo : 41 ≤ c.toNat) (hhi : c.toNat ≤ 45) :
    m.txbit c = m.reg.getLsbD (45 - c.toNat) := by
  have hbit : 63 - c.toNat - 18 = 45 - c.toNat := by omega
  rw [m.txbit_frame (by omega), m.frame_getLsbD, if_neg (by omega), if_neg (by omega), if_pos (by omega), hbit]

/-- A write's data, most significant bit first, in cells 48 to 63. -/
theorem Mdioc.txbit_data {m : Mdioc} (hop : m.op = .wr) {c : BitVec 6} (hc : 48 ≤ c.toNat) :
    m.txbit c = m.wdata.getLsbD (63 - c.toNat) := by
  rw [m.txbit_frame (by omega), m.frame_getLsbD, if_pos (by omega), hop]
  rfl

/-- Settles O16: each clause is the field of the frame word that the cell belongs to. -/
theorem frameFollowsCellMap : Obligations.FrameFollowsCellMap := by
  intro m c
  refine ⟨m.drive_eq c, m.txbit_preamble, ?_, ?_, fun hop => ⟨?_, ?_⟩, fun hop => ⟨?_, ?_⟩, m.txbit_phy, m.txbit_reg,
    fun hop => ⟨?_, ?_⟩, fun hop => Mdioc.txbit_data hop⟩
  · rw [m.txbit_frame (by decide), m.frame_getLsbD]; rfl
  · rw [m.txbit_frame (by decide), m.frame_getLsbD]; rfl
  · rw [m.txbit_frame (by decide), m.frame_getLsbD, hop]; rfl
  · rw [m.txbit_frame (by decide), m.frame_getLsbD, hop]; rfl
  · rw [m.txbit_frame (by decide), m.frame_getLsbD, hop]; rfl
  · rw [m.txbit_frame (by decide), m.frame_getLsbD, hop]; rfl
  · rw [m.txbit_frame (by decide), m.frame_getLsbD, hop]; rfl
  · rw [m.txbit_frame (by decide), m.frame_getLsbD, hop]; rfl

end Sys2Proof.Machine

/-! PROOFS. Family 41_mdio_transactions.md: commands accepted and rejected (O8, O11), the two phases of a bit cell (O14,
O15), the lines between transactions (O25), what an accepted command sends (O18) and receives (O19), with the position of a
running transaction they rest on. -/

namespace Sys2Proof.Machine

/-! ## A rejected command (41_mdio_transactions.md R115) -/

/-- A command is no write to MDIO_DIV or MDIO_STATUS. -/
theorem Mdioc.hostStore_of_isCommand (P : Params) (m : Mdioc) {a : MdioAct} (ha : a.isCommand = true) :
    m.hostStore P a = m := by
  obtain ⟨v, rfl, -⟩ | ⟨v, rfl, -⟩ | ⟨-, -, h⟩ := m.hostStore_cases P a
  · cases ha
  · cases ha
  · exact h

/-- In an IDLE tick a command is turned away for PIN_FAULT or its reserved encoding. -/
theorem Mdioc.present_rejected {m : Mdioc} {a : MdioAct} (ha : a.isCommand = true)
    (h : m.pinFault = true ∨ a = .reserved) : m.present a = m.reject := by
  cases a with
  | reserved => rfl
  | request r =>
    have hp : m.pinFault = true := h.resolve_right nofun
    simp [Mdioc.present, hp]
  | _ => cases ha

/-- Settles O11: CMD_ERR has no part in the running transaction's tick, its abort or its completion. -/
theorem rejectedCommandOnlySetsCmdErr : Obligations.RejectedCommandOnlySetsCmdErr := by
  intro P d a m hr ha hreason
  show _ = (m.tick P d .none).reject
  by_cases hm : m.mstate = .idle
  · rw [Mdioc.tick_idle P a hr hm, Mdioc.tick_idle P .none hr hm, m.hostStore_of_isCommand P ha]
    exact Mdioc.present_rejected ha (hreason.resolve_left (absurd hm))
  · cases hp : P.pinFallible && d.pinErr with
    | true =>
      rw [Mdioc.tick_pinAbort P a hr hm hp, Mdioc.tick_pinAbort P .none hr hm hp, m.hostStore_of_isCommand P ha,
        if_pos ha]
      rfl
    | false =>
      rw [Mdioc.tick_quiet P a ⟨hr, hp⟩ hm, Mdioc.tick_quiet P .none ⟨hr, hp⟩ hm, m.hostStore_of_isCommand P ha,
        if_pos ha]
      exact m.advance_reject d.line

/-! ## A word written to MDIO_CMD (30_encoding.md R88, 41_mdio_transactions.md R100, R101) -/

/-- ST and OP lie side by side in the top four bits of a command word (R81). -/
theorem Word.top_four (w : Word) : w.extractLsb' 28 4 = Word.st w ++ Word.opBits w := by
  refine BitVec.eq_of_getLsbD_eq fun i hi => ?_
  simp only [Word.st, Word.opBits, BitVec.getLsbD_append, BitVec.getLsbD_extractLsb']
  split_ifs with hlow
  · simp [hlow, hi]
  · have hhigh : i - 2 < 2 := by omega
    have hbit : 30 + (i - 2) = 28 + i := by omega
    simp [hhigh, hi, hbit]

/-- So the top four bits decide both (R88). -/
theorem Word.top_four_eq_iff (w : Word) (st op : BitVec 2) :
    w.extractLsb' 28 4 = st ++ op ↔ Word.st w = st ∧ Word.opBits w = op := by
  rw [Word.top_four]
  generalize Word.st w = st', Word.opBits w = op'
  revert st op st' op'
  decide

theorem Word.top_four_eq_read_iff (w : Word) :
    w.extractLsb' 28 4 = 0b0110#4 ↔ Word.st w = 0b01#2 ∧ Word.opBits w = 0b10#2 :=
  Word.top_four_eq_iff w 0b01#2 0b10#2

theorem Word.top_four_eq_write_iff (w : Word) :
    w.extractLsb' 28 4 = 0b0101#4 ↔ Word.st w = 0b01#2 ∧ Word.opBits w = 0b01#2 :=
  Word.top_four_eq_iff w 0b01#2 0b01#2

theorem decode_mdioCmd_read {w : Word} (h : w.extractLsb' 28 4 = 0b0110#4) :
    decode .mdioCmd w = .instr (.mdioRead (Word.phyad w) (Word.regad w) (Word.ta w) (Word.data w)) := by
  obtain ⟨hst, hop⟩ := (Word.top_four_eq_read_iff w).mp h
  simp [decode, decodeCmd, hst, hop]

theorem decode_mdioCmd_write {w : Word} (h : w.extractLsb' 28 4 = 0b0101#4) :
    decode .mdioCmd w = .instr (.mdioWrite (Word.phyad w) (Word.regad w) (Word.ta w) (Word.data w)) := by
  obtain ⟨hst, hop⟩ := (Word.top_four_eq_write_iff w).mp h
  simp [decode, decodeCmd, hst, hop]

theorem decode_mdioCmd_reject {w : Word} (hr : w.extractLsb' 28 4 ≠ 0b0110#4) (hw : w.extractLsb' 28 4 ≠ 0b0101#4) :
    ∃ r, decode .mdioCmd w = .reject r := by
  by_cases hst : Word.st w = 0b01#2
  · have hrd : Word.opBits w ≠ 0b10#2 := fun hop => hr ((Word.top_four_eq_read_iff w).mpr ⟨hst, hop⟩)
    have hwr : Word.opBits w ≠ 0b01#2 := fun hop => hw ((Word.top_four_eq_write_iff w).mpr ⟨hst, hop⟩)
    exact ⟨.reservedOp, by simp [decode, decodeCmd, hst, hrd, hwr]⟩
  · exact ⟨.badStart, by simp [decode, decodeCmd, hst]⟩

/-- What the host presents to MDIOC by writing a word to MDIO_CMD: the top four bits decide (R88). -/
def cmdAct (w : Word) : MdioAct :=
  if w.extractLsb' 28 4 = 0b0110#4 then .request (readRequest (Word.phyad w) (Word.regad w))
  else if w.extractLsb' 28 4 = 0b0101#4 then .request (writeRequest (Word.phyad w) (Word.regad w) (Word.data w))
  else .reserved

theorem cmdAct_isCommand (w : Word) : (cmdAct w).isCommand = true := by
  simp only [cmdAct]
  split_ifs <;> rfl

/-- A write to MDIO_CMD that is made in the next step is a tick of MDIOC in which `cmdAct` is presented. -/
theorem step_writesNext_cmd {s : State} {w : Word} {rest : List HostOp} (h : s.writesNext .mdioc 0x00 w rest) :
    step s = .next (tickMdioc (cmdAct w) (s.moved rest)) := by
  have hfetch : fetch s = mdioWriteAction 0x00 w (s.moved rest) := fetch_writesNext h rfl
  have hreg : mdioRegAt 0x00 = some .cmd := rfl
  by_cases hrd : w.extractLsb' 28 4 = 0b0110#4
  · simp [step, hfetch, mdioWriteAction, hreg, decode_mdioCmd_read hrd, exec_mdioRead, cmdAct, hrd]
  · by_cases hwr : w.extractLsb' 28 4 = 0b0101#4
    · simp [step, hfetch, mdioWriteAction, hreg, decode_mdioCmd_write hwr, exec_mdioWrite, cmdAct, hwr]
    · obtain ⟨r, hdecode⟩ := decode_mdioCmd_reject hrd hwr
      simp [step, hfetch, mdioWriteAction, hreg, hdecode, cmdAct, hrd, hwr]

/-- The tick in which a command is accepted (R101). -/
theorem Mdioc.tick_accept (P : Params) {d : MdioDraw} (r : Request) {m : Mdioc} (hr : d.rst = false)
    (hm : m.mstate = .idle) (hp : m.pinFault = false) : m.tick P d (.request r) = m.accept r := by
  rw [Mdioc.tick_idle P _ hr hm]
  simp [Mdioc.hostStore, Mdioc.present, hp]

/-- Settles O8: the word is presented as `cmdAct`; an accepted one is latched, and every other is rejected as in O11. -/
theorem writeToCmdIsAcceptedOrRejected : Obligations.WriteToCmdIsAcceptedOrRejected := by
  intro s w rest hnext hr
  refine ⟨s.mdioc.tick Config.params s.env.mdioDraw (cmdAct w), step_writesNext_cmd hnext, ?_, ?_⟩
  · rintro ⟨hm, hp, hrd | hwr⟩
    · have hop : w.extractLsb' 28 2 = 0b10#2 := ((Word.top_four_eq_read_iff w).mp hrd).2
      rw [cmdAct, if_pos hrd, Mdioc.tick_accept _ _ hr hm hp, Mdioc.accept_eq, if_pos hop, if_pos hop]
      rfl
    · have hop : w.extractLsb' 28 2 = 0b01#2 := ((Word.top_four_eq_write_iff w).mp hwr).2
      rw [cmdAct, hwr, if_neg (by decide), if_pos rfl, Mdioc.tick_accept _ _ hr hm hp, Mdioc.accept_eq, hop]
      rfl
  · intro hturned
    refine rejectedCommandOnlySetsCmdErr _ _ _ _ hr (cmdAct_isCommand w) ?_
    by_cases hm : s.mdioc.mstate = .idle
    · cases hp : s.mdioc.pinFault with
      | true => exact .inr (.inl rfl)
      | false =>
        have henc : ¬ (w.extractLsb' 28 4 = 0b0110#4 ∨ w.extractLsb' 28 4 = 0b0101#4) := fun h => hturned ⟨hm, hp, h⟩
        obtain ⟨hrd, hwr⟩ := not_or.mp henc
        exact .inr (.inr (by rw [cmdAct, if_neg hrd, if_neg hwr]))
    · exact .inl hm

/-! ## The host's access in a busy tick: at most `div` and the flags change (41_mdio_transactions.md R117) -/

/-- The block after the host's access of a busy tick, before the running transaction's tick. -/
def Mdioc.afterAccess (P : Params) (m : Mdioc) (a : MdioAct) : Mdioc :=
  if a.isCommand then (m.hostStore P a).reject else m.hostStore P a

@[simp] theorem Mdioc.afterAccess_mstate (P : Params) (m : Mdioc) (a : MdioAct) :
    (m.afterAccess P a).mstate = m.mstate := by cases a <;> rfl
@[simp] theorem Mdioc.afterAccess_cell (P : Params) (m : Mdioc) (a : MdioAct) :
    (m.afterAccess P a).cell = m.cell := by cases a <;> rfl
@[simp] theorem Mdioc.afterAccess_cnt (P : Params) (m : Mdioc) (a : MdioAct) :
    (m.afterAccess P a).cnt = m.cnt := by cases a <;> rfl
@[simp] theorem Mdioc.afterAccess_op (P : Params) (m : Mdioc) (a : MdioAct) :
    (m.afterAccess P a).op = m.op := by cases a <;> rfl
@[simp] theorem Mdioc.afterAccess_phy (P : Params) (m : Mdioc) (a : MdioAct) :
    (m.afterAccess P a).phy = m.phy := by cases a <;> rfl
@[simp] theorem Mdioc.afterAccess_reg (P : Params) (m : Mdioc) (a : MdioAct) :
    (m.afterAccess P a).reg = m.reg := by cases a <;> rfl
@[simp] theorem Mdioc.afterAccess_wdata (P : Params) (m : Mdioc) (a : MdioAct) :
    (m.afterAccess P a).wdata = m.wdata := by cases a <;> rfl
@[simp] theorem Mdioc.afterAccess_half (P : Params) (m : Mdioc) (a : MdioAct) :
    (m.afterAccess P a).half = m.half := by cases a <;> rfl
@[simp] theorem Mdioc.afterAccess_rx (P : Params) (m : Mdioc) (a : MdioAct) :
    (m.afterAccess P a).rx = m.rx := by cases a <;> rfl
@[simp] theorem Mdioc.afterAccess_rdata (P : Params) (m : Mdioc) (a : MdioAct) :
    (m.afterAccess P a).rdata = m.rdata := by cases a <;> rfl
@[simp] theorem Mdioc.afterAccess_pinFault (P : Params) (m : Mdioc) (a : MdioAct) :
    (m.afterAccess P a).pinFault = m.pinFault := by cases a <;> rfl
@[simp] theorem Mdioc.afterAccess_mdc (P : Params) (m : Mdioc) (a : MdioAct) :
    (m.afterAccess P a).mdc = m.mdc := by cases a <;> rfl
@[simp] theorem Mdioc.afterAccess_mdioRole (P : Params) (m : Mdioc) (a : MdioAct) :
    (m.afterAccess P a).mdioRole = m.mdioRole := by cases a <;> rfl
@[simp] theorem Mdioc.afterAccess_mdioO (P : Params) (m : Mdioc) (a : MdioAct) :
    (m.afterAccess P a).mdioO = m.mdioO := by cases a <;> rfl
@[simp] theorem Mdioc.afterAccess_drive (P : Params) (m : Mdioc) (a : MdioAct) (c : BitVec 6) :
    (m.afterAccess P a).drive c = m.drive c := by cases a <;> rfl
@[simp] theorem Mdioc.afterAccess_txbit (P : Params) (m : Mdioc) (a : MdioAct) (c : BitVec 6) :
    (m.afterAccess P a).txbit c = m.txbit c := by cases a <;> rfl
@[simp] theorem Mdioc.afterAccess_frame (P : Params) (m : Mdioc) (a : MdioAct) :
    (m.afterAccess P a).frame = m.frame := by cases a <;> rfl
@[simp] theorem Mdioc.afterAccess_line (P : Params) (m : Mdioc) (a : MdioAct) (b : Bool) :
    (m.afterAccess P a).line b = m.line b := by cases a <;> rfl

/-! ## A quiet tick of a running transaction, one equation per case (R104, R105, R107) -/

/-- The running transaction's tick comes after the host's access. -/
theorem Mdioc.tick_quiet_advance {P : Params} {d : MdioDraw} (a : MdioAct) {m : Mdioc} (hq : d.quiet P)
    (hm : m.mstate ≠ .idle) : m.tick P d a = (m.afterAccess P a).advance d.line :=
  Mdioc.tick_quiet P a hq hm

/-- Inside a phase the tick counts. -/
theorem Mdioc.tick_inside {P : Params} {d : MdioDraw} (a : MdioAct) {m : Mdioc} (hq : d.quiet P) (hm : m.mstate ≠ .idle)
    (hk : m.cnt.toNat + 1 < m.half.toNat) : m.tick P d a = { m.afterAccess P a with cnt := m.cnt + 1#16 } := by
  rw [Mdioc.tick_quiet_advance a hq hm]
  cases h : m.mstate with
  | idle => exact absurd h hm
  | low => simp [Mdioc.advance, h, Mdioc.lowTick, hk]
  | high => simp [Mdioc.advance, h, Mdioc.highTick, hk]

/-- The last LOW tick raises MDC. -/
theorem Mdioc.tick_low_end {P : Params} {d : MdioDraw} (a : MdioAct) {m : Mdioc} (hq : d.quiet P) (hm : m.mstate = .low)
    (hk : m.half.toNat ≤ m.cnt.toNat + 1) :
    m.tick P d a = { m.afterAccess P a with mstate := .high, cnt := 0#16, mdc := true } := by
  rw [Mdioc.tick_quiet_advance a hq (by simp [hm])]
  simp [Mdioc.advance, hm, Mdioc.lowTick, Nat.not_lt.mpr hk]

/-- The last HIGH tick of cell 63 completes the transaction. -/
theorem Mdioc.tick_high_complete {P : Params} {d : MdioDraw} (a : MdioAct) {m : Mdioc} (hq : d.quiet P)
    (hm : m.mstate = .high) (hk : m.half.toNat ≤ m.cnt.toNat + 1) (hc : m.cell.toNat = 63) :
    m.tick P d a = ((m.afterAccess P a).sample d.line).complete := by
  rw [Mdioc.tick_quiet_advance a hq (by simp [hm])]
  simp [Mdioc.advance, hm, Mdioc.highTick, Nat.not_lt.mpr hk, hc]

/-- The last HIGH tick of every other cell enters the next. -/
theorem Mdioc.tick_high_next {P : Params} {d : MdioDraw} (a : MdioAct) {m : Mdioc} (hq : d.quiet P)
    (hm : m.mstate = .high) (hk : m.half.toNat ≤ m.cnt.toNat + 1) (hc : m.cell.toNat ≠ 63) :
    m.tick P d a = ((m.afterAccess P a).sample d.line).enterCell (m.cell + 1#6) := by
  rw [Mdioc.tick_quiet_advance a hq (by simp [hm])]
  simp [Mdioc.advance, hm, Mdioc.highTick, Nat.not_lt.mpr hk, hc]

/-! ### What a sample and the entry of a cell leave -/

/-- The sample of a read's data cell: the line's level, shifted in at the least significant end (R106). -/
theorem Mdioc.sample_rx (m : Mdioc) (b : Bool) :
    (m.sample b).rx =
      if m.op = .rd ∧ 48 ≤ m.cell.toNat then (m.rx <<< 1) ||| (if m.line b then 1#16 else 0#16) else m.rx := by
  simp only [Mdioc.sample]
  split
  · cases m.line b <;> rfl
  · rfl

@[simp] theorem Mdioc.sample_op (m : Mdioc) (b : Bool) : (m.sample b).op = m.op := by rw [Mdioc.sample_eq]
@[simp] theorem Mdioc.sample_phy (m : Mdioc) (b : Bool) : (m.sample b).phy = m.phy := by rw [Mdioc.sample_eq]
@[simp] theorem Mdioc.sample_reg (m : Mdioc) (b : Bool) : (m.sample b).reg = m.reg := by rw [Mdioc.sample_eq]
@[simp] theorem Mdioc.sample_wdata (m : Mdioc) (b : Bool) : (m.sample b).wdata = m.wdata := by rw [Mdioc.sample_eq]
@[simp] theorem Mdioc.sample_rdata (m : Mdioc) (b : Bool) : (m.sample b).rdata = m.rdata := by rw [Mdioc.sample_eq]
@[simp] theorem Mdioc.sample_pinFault (m : Mdioc) (b : Bool) : (m.sample b).pinFault = m.pinFault := by rw [Mdioc.sample_eq]
@[simp] theorem Mdioc.sample_mdc (m : Mdioc) (b : Bool) : (m.sample b).mdc = m.mdc := by rw [Mdioc.sample_eq]
@[simp] theorem Mdioc.sample_mdioRole (m : Mdioc) (b : Bool) : (m.sample b).mdioRole = m.mdioRole := by rw [Mdioc.sample_eq]
@[simp] theorem Mdioc.sample_mdioO (m : Mdioc) (b : Bool) : (m.sample b).mdioO = m.mdioO := by rw [Mdioc.sample_eq]
@[simp] theorem Mdioc.sample_drive (m : Mdioc) (b : Bool) (c : BitVec 6) : (m.sample b).drive c = m.drive c := by
  rw [Mdioc.sample_eq]; rfl
@[simp] theorem Mdioc.sample_frame (m : Mdioc) (b : Bool) : (m.sample b).frame = m.frame := by rw [Mdioc.sample_eq]; rfl
@[simp] theorem Mdioc.sample_txbit (m : Mdioc) (b : Bool) (c : BitVec 6) : (m.sample b).txbit c = m.txbit c := by
  rw [Mdioc.sample_eq]; rfl

/-- A completed read leaves what it has received, a write nothing (R107). -/
theorem Mdioc.complete_rdata (m : Mdioc) : m.complete.rdata = if m.op = .rd then m.rx else m.rdata := by
  cases h : m.op <;> simp [Mdioc.complete, h]

/-- Entering a cell drives its bit, or leaves the driven level where the line is released (R103). -/
theorem Mdioc.enterCell_mdioO (m : Mdioc) (c : BitVec 6) :
    (m.enterCell c).mdioO = if m.drive c = .out then m.txbit c else m.mdioO := by
  cases h : m.drive c <;> simp [Mdioc.enterCell, h]

/-! ### The counters do not wrap -/

/-- `cnt` stays below `half`. -/
theorem Mdioc.cnt_succ_toNat {m : Mdioc} (hk : m.cnt.toNat + 1 < m.half.toNat) :
    (m.cnt + 1#16).toNat = m.cnt.toNat + 1 :=
  BitVec.toNat_add_of_lt (hk.trans m.half.isLt)

theorem Mdioc.cell_succ_toNat {m : Mdioc} (hc : m.cell.toNat ≠ 63) : (m.cell + 1#6).toNat = m.cell.toNat + 1 := by
  have hcell := m.cell.isLt
  exact BitVec.toNat_add_of_lt (show m.cell.toNat + 1 < 2 ^ 6 by omega)

/-! ## The length of a phase (R104, R105) -/

/-- Quiet ticks that do not fill the phase only count. -/
theorem Mdioc.run_inside_phase {P : Params} {ins : List (MdioDraw × MdioAct)} {m : Mdioc} (hins : ∀ i ∈ ins, i.1.quiet P)
    (hm : m.mstate ≠ .idle) (hlen : m.cnt.toNat + ins.length < m.half.toNat) :
    (Mdioc.run P ins m).mstate = m.mstate ∧ (Mdioc.run P ins m).half = m.half ∧
      (Mdioc.run P ins m).cnt.toNat = m.cnt.toNat + ins.length := by
  induction ins generalizing m with
  | nil => exact ⟨rfl, rfl, rfl⟩
  | cons i ins ih =>
    obtain ⟨hq, hrest⟩ := List.forall_mem_cons.mp hins
    rw [List.length_cons] at hlen ⊢
    have hk : m.cnt.toNat + 1 < m.half.toNat := by omega
    have htick := m.tick_inside i.2 hq hm hk
    have hcnt : (m.tick P i.1 i.2).cnt.toNat = m.cnt.toNat + 1 := by rw [htick]; exact Mdioc.cnt_succ_toNat hk
    have hhalf : (m.tick P i.1 i.2).half = m.half := by rw [htick]; simp
    have hstate : (m.tick P i.1 i.2).mstate = m.mstate := by rw [htick]; simp
    obtain ⟨ihState, ihHalf, ihCnt⟩ := ih hrest (by rwa [hstate]) (by rw [hcnt, hhalf]; omega)
    exact ⟨ihState.trans hstate, ihHalf.trans hhalf, by rw [Mdioc.run_cons, ihCnt, hcnt]; omega⟩

/-- As many quiet ticks as the phase is long end with the last tick of that phase. -/
theorem Mdioc.run_whole_phase {P : Params} {ins : List (MdioDraw × MdioAct)} {m : Mdioc} (hins : ∀ i ∈ ins, i.1.quiet P)
    (hm : m.mstate ≠ .idle) (hcnt : m.cnt.toNat = 0) (hpos : 1 ≤ m.half.toNat) (hlen : ins.length = m.half.toNat) :
    ∃ (t : Mdioc) (i : MdioDraw × MdioAct), Mdioc.run P ins m = t.tick P i.1 i.2 ∧ i.1.quiet P ∧ t.mstate = m.mstate ∧
      t.half.toNat ≤ t.cnt.toNat + 1 := by
  obtain rfl | ⟨pre, i, rfl⟩ := ins.eq_nil_or_concat
  · exact absurd hlen.symm (Nat.ne_of_gt hpos)
  · rw [List.concat_eq_append] at hins hlen ⊢
    rw [List.length_append, List.length_singleton] at hlen
    obtain ⟨hstate, hhalf, hcnt'⟩ := Mdioc.run_inside_phase (ins := pre) (m := m)
      (fun j hj => hins j (List.mem_append_left _ hj)) hm (by omega)
    exact ⟨Mdioc.run P pre m, i, Mdioc.run_append P pre [i] m, hins i (by simp), hstate, by rw [hhalf, hcnt']; omega⟩

/-- Settles O14: inside the phase the tick counts, its last tick raises MDC. -/
theorem lowPhaseLastsHalfTicks : Obligations.LowPhaseLastsHalfTicks := by
  refine ⟨fun P d a m hq hm => ?_, fun P ins m hins hm hcnt hpos => ?_⟩
  · by_cases hk : m.cnt.toNat + 1 < m.half.toNat
    · have hend : ¬ m.half.toNat ≤ m.cnt.toNat + 1 := Nat.not_le.mpr hk
      rw [Mdioc.tick_inside a hq (by simp [hm]) hk]
      simp [hm, hend]
    · have hend := Nat.not_lt.mp hk
      rw [Mdioc.tick_low_end a hq hm hend]
      simp [hk]
  · have hbusy : m.mstate ≠ .idle := by simp [hm]
    have hcnt0 : m.cnt.toNat = 0 := congrArg BitVec.toNat hcnt
    refine ⟨fun hlen => ?_, fun hlen => ?_⟩
    · obtain ⟨hstate, -, -⟩ := Mdioc.run_inside_phase hins hbusy (by omega)
      exact hstate.trans hm
    · obtain ⟨t, i, hrun, hq, hstate, hend⟩ := Mdioc.run_whole_phase hins hbusy hcnt0 hpos hlen
      rw [hrun, Mdioc.tick_low_end i.2 hq (hstate.trans hm) hend]
      exact ⟨rfl, rfl⟩

/-- Settles O15: inside the phase the tick counts; its last tick samples, and completes or enters the next cell. -/
theorem highPhaseEndsInNextCellOrCompletion : Obligations.HighPhaseEndsInNextCellOrCompletion := by
  refine ⟨fun P d a m hq hm => ?_, fun P ins m hins hm hcnt hpos => ?_⟩
  · by_cases hk : m.cnt.toNat + 1 < m.half.toNat
    · have hend : ¬ m.half.toNat ≤ m.cnt.toNat + 1 := Nat.not_le.mpr hk
      rw [Mdioc.tick_inside a hq (by simp [hm]) hk]
      simp [hm, hend]
    · have hend := Nat.not_lt.mp hk
      by_cases hc : m.cell = 63#6
      · rw [Mdioc.tick_high_complete a hq hm hend (by rw [hc]; rfl)]
        simp [hk, hc, Mdioc.complete_rdata, Mdioc.sample_rx]
      · have hc63 : m.cell.toNat ≠ 63 := fun h => hc (BitVec.eq_of_toNat_eq h)
        rw [Mdioc.tick_high_next a hq hm hend hc63]
        simp [hk, hc, Mdioc.enterCell_mdioO, Mdioc.sample_rx]
  · have hbusy : m.mstate ≠ .idle := by simp [hm]
    have hcnt0 : m.cnt.toNat = 0 := congrArg BitVec.toNat hcnt
    refine ⟨fun hlen => ?_, fun hlen => ?_⟩
    · obtain ⟨hstate, -, -⟩ := Mdioc.run_inside_phase hins hbusy (by omega)
      exact hstate.trans hm
    · obtain ⟨t, i, hrun, hq, hstate, hend⟩ := Mdioc.run_whole_phase hins hbusy hcnt0 hpos hlen
      by_cases hc : t.cell.toNat = 63
      · rw [hrun, Mdioc.tick_high_complete i.2 hq (hstate.trans hm) hend hc]
        exact ⟨nofun, rfl⟩
      · rw [hrun, Mdioc.tick_high_next i.2 hq (hstate.trans hm) hend hc]
        exact ⟨nofun, rfl⟩

/-! ## The lines between transactions (R112) -/

/-- A quiet tick of a running transaction ends IDLE only as the last HIGH tick of cell 63. -/
theorem Mdioc.completes_of_tick_idle {P : Params} {d : MdioDraw} {a : MdioAct} {m : Mdioc} (hq : d.quiet P)
    (hm : m.mstate ≠ .idle) (ht : (m.tick P d a).mstate = .idle) :
    m.mstate = .high ∧ m.half.toNat ≤ m.cnt.toNat + 1 ∧ m.cell.toNat = 63 := by
  by_cases hk : m.cnt.toNat + 1 < m.half.toNat
  · rw [Mdioc.tick_inside a hq hm hk] at ht
    exact absurd ((m.afterAccess_mstate P a).symm.trans ht) hm
  · have hend := Nat.not_lt.mp hk
    cases hstate : m.mstate with
    | idle => exact absurd hstate hm
    | low =>
      rw [Mdioc.tick_low_end a hq hstate hend] at ht
      cases ht
    | high =>
      by_cases hc : m.cell.toNat = 63
      · exact ⟨rfl, hend, hc⟩
      · rw [Mdioc.tick_high_next a hq hstate hend hc] at ht
        cases ht

/-- An IDLE tick accepts a request, or leaves the state and the lines as they are. -/
theorem Mdioc.tick_idle_cases (P : Params) {d : MdioDraw} (a : MdioAct) {m : Mdioc} (hr : d.rst = false)
    (hm : m.mstate = .idle) :
    (∃ r, m.tick P d a = m.accept r) ∨
    ((m.tick P d a).mstate = .idle ∧ (m.tick P d a).mdc = m.mdc ∧ (m.tick P d a).mdioRole = m.mdioRole ∧
      (m.tick P d a).mdioO = m.mdioO) := by
  cases a with
  | request r =>
    cases hp : m.pinFault with
    | false => exact .inl ⟨r, m.tick_accept P r hr hm hp⟩
    | true =>
      rw [Mdioc.tick_idle P _ hr hm, m.hostStore_of_isCommand P rfl, Mdioc.present_rejected rfl (.inl hp)]
      exact .inr ⟨hm, rfl, rfl, rfl⟩
  | _ =>
    rw [Mdioc.tick_idle P _ hr hm]
    exact .inr ⟨hm, rfl, rfl, rfl⟩

/-- Settles O25: the completing tick keeps the lines of cell 63, which the invariant gives; IDLE keeps them. -/
theorem linesKeepTheirLevelsBetweenTransactions : Obligations.LinesKeepTheirLevelsBetweenTransactions := by
  refine ⟨fun P d a m hinv hq hm => ?_, fun P d a m hr hm => ⟨?_, ?_, ?_⟩, fun P => ⟨rfl, rfl⟩⟩
  · intro t ht
    obtain ⟨hstate, hend, hc⟩ := Mdioc.completes_of_tick_idle hq hm ht
    have hrole := hinv.busyRole hm
    have htick : t = ((m.afterAccess P a).sample d.line).complete := Mdioc.tick_high_complete a hq hstate hend hc
    simp only [htick, Mdioc.complete_mdc, Mdioc.complete_mdioRole, Mdioc.complete_mdioO, Mdioc.sample_mdc,
      Mdioc.sample_mdioRole, Mdioc.sample_mdioO, Mdioc.afterAccess_mdc, Mdioc.afterAccess_mdioRole,
      Mdioc.afterAccess_mdioO]
    refine ⟨(hinv.busyMdc hm).mpr hstate, fun hop => ?_, fun hop => ?_⟩
    · have hout : m.mdioRole = .out := by simp [hrole, m.drive_eq, hop]
      rw [hinv.busyLevel hm hout, Mdioc.txbit_data hop (by omega), hc]
      exact ⟨hout, rfl⟩
    · simp [hrole, m.drive_eq, hop, hc]
  · intro hidle
    obtain ⟨r, h⟩ | ⟨-, hlines⟩ := m.tick_idle_cases P a hr hm
    · rw [h] at hidle
      cases hidle
    · exact hlines
  · intro hbusy
    obtain ⟨r, h⟩ | ⟨hidle, -⟩ := m.tick_idle_cases P a hr hm
    · rw [h, Mdioc.accept_eq]
      exact ⟨rfl, rfl⟩
    · exact absurd hidle hbusy
  · rintro rfl
    exact m.tick_idle P .none hr hm

/-! ## Where a running transaction stands (R103, R113) -/

/-- Inside a phase of `h` ticks only the count goes on. -/
theorem div_mod_succ_inside {n h : Nat} (hk : n % h + 1 < h) : (n + 1) / h = n / h ∧ (n + 1) % h = n % h + 1 := by
  refine (Nat.div_mod_unique (by omega)).mpr ⟨?_, hk⟩
  have hn := Nat.mod_add_div n h
  omega

/-- The last of a phase's `h` ticks ends in the next phase. -/
theorem div_mod_succ_end {n h : Nat} (hk : n % h + 1 = h) : (n + 1) / h = n / h + 1 ∧ (n + 1) % h = 0 := by
  refine (Nat.div_mod_unique (by omega)).mpr ⟨?_, by omega⟩
  have hn := Nat.mod_add_div n h
  rw [Nat.mul_succ]
  omega

/-- A running transaction `n` ticks after request `r` was accepted with half-cell length `h`: `n / h` phases and `n / h / 2`
cells are over, and the line is that of the current cell. -/
structure Mdioc.Running (r : Request) (h n : Nat) (m : Mdioc) : Prop where
  half : m.half.toNat = h
  cnt : m.cnt.toNat = n % h
  phase : m.mstate = if n / h % 2 = 0 then .low else .high
  mdc : m.mdc = decide (n / h % 2 = 1)
  cell : m.cell.toNat = n / h / 2
  op : m.op = r.op
  frame : m.frame = enc r.op r.phy r.reg r.data
  role : m.mdioRole = m.drive m.cell
  level : m.mdioRole = .out → m.mdioO = m.txbit m.cell

namespace Mdioc.Running

variable {P : Params} {d : MdioDraw} {a : MdioAct} {r : Request} {h n : Nat} {m : Mdioc}

theorem busy (hm : m.Running r h n) : m.mstate ≠ .idle := by
  rw [hm.phase]
  split <;> nofun

/-- An accepted command stands in its first tick (R101). -/
theorem accept (m : Mdioc) (r : Request) : (m.accept r).Running r m.div.toNat 0 := by
  rw [Mdioc.accept_eq]
  refine ⟨rfl, (Nat.zero_mod _).symm, by simp, by simp, by simp, rfl, ?_, ?_, fun _ => rfl⟩
  · cases r with | mk op phy reg data => cases op <;> rfl
  · cases r with | mk op phy reg data => cases op <;> rfl

/-- The host's access does not move the transaction. -/
theorem afterAccess (hm : m.Running r h n) : (m.afterAccess P a).Running r h n := by
  constructor
  · rw [Mdioc.afterAccess_half, hm.half]
  · rw [Mdioc.afterAccess_cnt, hm.cnt]
  · rw [Mdioc.afterAccess_mstate, hm.phase]
  · rw [Mdioc.afterAccess_mdc, hm.mdc]
  · rw [Mdioc.afterAccess_cell, hm.cell]
  · rw [Mdioc.afterAccess_op, hm.op]
  · rw [Mdioc.afterAccess_frame, hm.frame]
  · rw [Mdioc.afterAccess_mdioRole, Mdioc.afterAccess_drive, Mdioc.afterAccess_cell, hm.role]
  · rw [Mdioc.afterAccess_mdioRole, Mdioc.afterAccess_mdioO, Mdioc.afterAccess_txbit, Mdioc.afterAccess_cell]
    exact hm.level

/-- The transaction goes on by one tick, in the phase, into the HIGH phase or into the next cell. -/
theorem tick (hm : m.Running r h n) (hq : d.quiet P) (hn : n + 1 < 128 * h) : (m.tick P d a).Running r h (n + 1) := by
  have hacc : (m.afterAccess P a).Running r h n := hm.afterAccess
  have hmod : n % h < h := Nat.mod_lt n (by omega)
  by_cases hk : n % h + 1 < h
  · obtain ⟨hdiv, hmod'⟩ := div_mod_succ_inside hk
    have hin : m.cnt.toNat + 1 < m.half.toNat := by rw [hm.cnt, hm.half]; exact hk
    rw [Mdioc.tick_inside a hq hm.busy hin]
    exact ⟨hacc.half, by rw [hmod', ← hm.cnt]; exact Mdioc.cnt_succ_toNat hin, by rw [hdiv]; exact hacc.phase,
      by rw [hdiv]; exact hacc.mdc, by rw [hdiv]; exact hacc.cell, hacc.op, hacc.frame, hacc.role, hacc.level⟩
  · have hend : n % h + 1 = h := by omega
    obtain ⟨hdiv, hmod'⟩ := div_mod_succ_end hend
    have hlast : m.half.toNat ≤ m.cnt.toNat + 1 := by rw [hm.cnt, hm.half]; omega
    by_cases hphase : n / h % 2 = 0
    · have hlow : m.mstate = .low := by rw [hm.phase, if_pos hphase]
      have hodd : (n / h + 1) % 2 = 1 := by omega
      have hcell : (n / h + 1) / 2 = n / h / 2 := by omega
      rw [Mdioc.tick_low_end a hq hlow hlast]
      exact ⟨hacc.half, hmod'.symm, by rw [hdiv, hodd]; rfl, by rw [hdiv, hodd]; rfl,
        by rw [hdiv, hcell]; exact hacc.cell, hacc.op, hacc.frame, hacc.role, hacc.level⟩
    · have hhigh : m.mstate = .high := by rw [hm.phase, if_neg hphase]
      have heven : (n / h + 1) % 2 = 0 := by omega
      have hcell : (n / h + 1) / 2 = n / h / 2 + 1 := by omega
      have hc63 : m.cell.toNat ≠ 63 := by
        have hdiv128 : (n + 1) / h < 128 := Nat.div_lt_of_lt_mul (by rwa [Nat.mul_comm])
        rw [hm.cell]
        omega
      rw [Mdioc.tick_high_next a hq hhigh hlast hc63]
      constructor
      · simp [hm.half]
      · rw [hmod']; rfl
      · rw [hdiv, heven]; rfl
      · rw [hdiv, heven]; rfl
      · rw [hdiv, hcell, ← hm.cell]; exact Mdioc.cell_succ_toNat hc63
      · simp [hm.op]
      · exact (Mdioc.sample_frame _ _).trans hacc.frame
      · rfl
      · intro hout
        exact (Mdioc.enterCell_mdioO _ _).trans (if_pos hout)

/-- Quiet ticks short of the transaction's end only move it on, whatever the host does in them. -/
theorem run (hm : m.Running r h n) {ins : List (MdioDraw × MdioAct)} (hins : ∀ i ∈ ins, i.1.quiet P)
    (hlen : n + ins.length < 128 * h) : (Mdioc.run P ins m).Running r h (n + ins.length) := by
  induction ins generalizing m n with
  | nil => exact hm
  | cons i ins ih =>
    obtain ⟨hq, hrest⟩ := List.forall_mem_cons.mp hins
    rw [List.length_cons] at hlen ⊢
    have hnext := ih (hm.tick (a := i.2) hq (by omega)) hrest (by omega)
    rwa [Nat.add_right_comm, Nat.add_assoc] at hnext

end Mdioc.Running

/-- Where an accepted command stands after any quiet ticks short of its end (R113). -/
theorem Mdioc.run_accept_running {P : Params} (m : Mdioc) (r : Request) {ins : List (MdioDraw × MdioAct)}
    (hins : ∀ i ∈ ins, i.1.quiet P) (hlen : ins.length < 128 * m.div.toNat) :
    (Mdioc.run P ins (m.accept r)).Running r m.div.toNat ins.length := by
  simpa using (Mdioc.Running.accept m r).run hins (by simpa using hlen)

/-- Settles O18: the line of the cell in which the accepted command stands, from the latched operands. -/
theorem wireCarriesFrame : Obligations.WireCarriesFrame := by
  intro P m r ins hins hpos hlen c t
  have ht : t.Running r m.div.toNat ins.length := m.run_accept_running r hins hlen
  have hc : t.cell.toNat = c := by rw [ht.cell, Nat.div_div_eq_div_mul, Nat.mul_comm]
  have hrole : t.mdioRole = if r.op = .rd ∧ 46 ≤ c then .inp else .out := by rw [ht.role, t.drive_eq, ht.op, hc]
  refine ⟨fun hop => by simp [hrole, hop], fun hop => ?_, fun hout => ?_⟩
  · by_cases h46 : c < 46
    · have hdriven : ¬ 46 ≤ c := Nat.not_le.mpr h46
      simp [hrole, h46, hdriven]
    · simp [hrole, hop, h46, Nat.not_lt.mp h46]
  · rw [ht.level hout, Mdioc.txbit, hc, ht.frame]

/-! ## The samples of a read (R105, R106) -/

/-- The cells that are over took two phases each. -/
theorem cells_mul_le (n h : Nat) : 2 * (n / h / 2) * h ≤ n :=
  (Nat.mul_le_mul_right h (Nat.mul_div_le (n / h) 2)).trans (Nat.div_mul_le_self n h)

/-- The last tick of a cell: one more cell is over, after two phases for each. -/
theorem cells_succ_cellEnd {n h : Nat} (hk : n % h + 1 = h) (hphase : n / h % 2 = 1) :
    (n + 1) / h / 2 = n / h / 2 + 1 ∧ n + 1 = (2 * (n / h / 2) + 2) * h := by
  obtain ⟨hdiv, -⟩ := div_mod_succ_end hk
  have hodd : 2 * (n / h / 2) + 2 = n / h + 1 := by omega
  have hn := Nat.mod_add_div n h
  refine ⟨by omega, ?_⟩
  rw [hodd, Nat.mul_comm, Nat.mul_succ]
  omega

/-- After every other tick the same cells are over. -/
theorem cells_succ_inside {n h : Nat} (hpos : 0 < h) (hcell : ¬ (n % h + 1 = h ∧ n / h % 2 = 1)) :
    (n + 1) / h / 2 = n / h / 2 := by
  have hmod : n % h < h := Nat.mod_lt n hpos
  by_cases hk : n % h + 1 < h
  · rw [(div_mod_succ_inside hk).1]
  · have hdiv := (div_mod_succ_end (n := n) (h := h) (by omega)).1
    omega

namespace Mdioc.Running

variable {P : Params} {d : MdioDraw} {a : MdioAct} {r : Request} {h n : Nat} {m : Mdioc}

/-- The last tick of a cell takes the sample. -/
theorem tick_rx_cellEnd (hm : m.Running r h n) (hq : d.quiet P) (hk : n % h + 1 = h) (hphase : n / h % 2 = 1) :
    (m.tick P d a).rx = (m.sample d.line).rx := by
  have hhigh : m.mstate = .high := by rw [hm.phase, hphase]; rfl
  have hlast : m.half.toNat ≤ m.cnt.toNat + 1 := by rw [hm.cnt, hm.half]; omega
  have hsample : ((m.afterAccess P a).sample d.line).rx = (m.sample d.line).rx := by simp [Mdioc.sample_rx]
  by_cases hc : m.cell.toNat = 63
  · rw [Mdioc.tick_high_complete a hq hhigh hlast hc, Mdioc.complete_rx, hsample]
  · rw [Mdioc.tick_high_next a hq hhigh hlast hc, Mdioc.enterCell_rx, hsample]

/-- No other tick does. -/
theorem tick_rx_inside (hm : m.Running r h n) (hq : d.quiet P) (hpos : 0 < h)
    (hcell : ¬ (n % h + 1 = h ∧ n / h % 2 = 1)) : (m.tick P d a).rx = m.rx := by
  have hmod : n % h < h := Nat.mod_lt n hpos
  by_cases hk : n % h + 1 < h
  · rw [Mdioc.tick_inside a hq hm.busy (by rw [hm.cnt, hm.half]; exact hk), Mdioc.afterAccess_rx]
  · have hlow : m.mstate = .low := by rw [hm.phase, if_pos (by omega)]
    rw [Mdioc.tick_low_end a hq hlow (by rw [hm.cnt, hm.half]; omega), Mdioc.afterAccess_rx]

/-- In the data cells of a read the line is the PHY's (R82). -/
theorem sample_rx_read (hm : m.Running r h n) (hop : r.op = .rd) (hc : 48 ≤ n / h / 2) (b : Bool) :
    (m.sample b).rx = (m.rx <<< 1) ||| (if b then 1#16 else 0#16) := by
  have hread : m.op = .rd ∧ 48 ≤ m.cell.toNat := ⟨hm.op.trans hop, hm.cell ▸ hc⟩
  have hreleased : m.mdioRole = .inp := by rw [hm.role, m.drive_eq, if_pos ⟨hread.1, by omega⟩]
  rw [Mdioc.sample_rx, if_pos hread, Mdioc.line, hreleased]

/-- The tick that ends cell 63 completes a read with what it has received. -/
theorem tick_rdata_complete (hm : m.Running r h n) (hop : r.op = .rd) (hq : d.quiet P) (hn : n + 1 = 128 * h) :
    (m.tick P d a).rdata = (m.tick P d a).rx := by
  obtain ⟨hdiv, hmod⟩ : n / h = 127 ∧ n % h = h - 1 := (Nat.div_mod_unique (by omega)).mpr (by omega)
  have hhigh : m.mstate = .high := by rw [hm.phase, hdiv]; rfl
  have hc : m.cell.toNat = 63 := by rw [hm.cell, hdiv]
  have hread : m.op = .rd := hm.op.trans hop
  rw [Mdioc.tick_high_complete a hq hhigh (by rw [hm.cnt, hm.half]; omega) hc, Mdioc.complete_rdata, Mdioc.complete_rx,
    if_pos (by simp [hread])]

end Mdioc.Running

/-- A bit shifted into `rx` stands in bit 0, the earlier ones each one place up. -/
theorem getLsbD_shiftIn_zero (rx : BitVec 16) (b : Bool) : ((rx <<< 1) ||| (if b then 1#16 else 0#16)).getLsbD 0 = b := by
  cases b <;> simp

theorem getLsbD_shiftIn_succ (rx : BitVec 16) (b : Bool) {k : Nat} (hk : k + 1 < 16) :
    ((rx <<< 1) ||| (if b then 1#16 else 0#16)).getLsbD (k + 1) = rx.getLsbD k := by
  have hone : (1#16).getLsbD (k + 1) = false := by simp
  have hshift : (rx <<< 1).getLsbD (k + 1) = rx.getLsbD k := by rw [BitVec.getLsbD_shiftLeft]; simp [hk]
  cases b <;> simp [BitVec.getLsbD_or, hone, hshift]

/-- The samples of the data cells among the first `cells` cells stand in `rx`, the newest in bit 0; cell c ends with entry
(2c+2) h - 1 of the inputs since acceptance. -/
def SamplesHeld (h : Nat) (ins : List (MdioDraw × MdioAct)) (cells : Nat) (rx : BitVec 16) : Prop :=
  ∀ (c : Nat) (x : MdioDraw × MdioAct), 48 ≤ c → c < cells → ins[(2 * c + 2) * h - 1]? = some x →
    rx.getLsbD (cells - 1 - c) = x.1.line

namespace SamplesHeld

variable {h cells : Nat} {ins : List (MdioDraw × MdioAct)} {rx : BitVec 16}

/-- Before the first data cell there is nothing to hold. -/
theorem of_le (hc : cells ≤ 48) : SamplesHeld h ins cells rx := fun c _ hlo hhi => by omega

/-- The ticks of the cell in which the transaction stands take no part. -/
theorem append (hs : SamplesHeld h ins cells rx) (hpos : 0 < h) (hlen : 2 * cells * h ≤ ins.length)
    (i : MdioDraw × MdioAct) : SamplesHeld h (ins ++ [i]) cells rx := by
  intro c x hlo hhi hx
  have hend : (2 * c + 2) * h ≤ 2 * cells * h := Nat.mul_le_mul_right h (by omega)
  have hstart : 0 < (2 * c + 2) * h := Nat.mul_pos (by omega) hpos
  rw [List.getElem?_append_left (by omega)] at hx
  exact hs c x hlo hhi hx

/-- The sample of the cell's last tick moves the earlier ones up by one bit; sixteen find room. -/
theorem sample (hs : SamplesHeld h ins cells rx) (hpos : 0 < h) (hlen : ins.length + 1 = (2 * cells + 2) * h)
    (hcells : cells < 64) (i : MdioDraw × MdioAct) :
    SamplesHeld h (ins ++ [i]) (cells + 1) ((rx <<< 1) ||| (if i.1.line then 1#16 else 0#16)) := by
  intro c x hlo hhi hx
  obtain rfl | hlt : c = cells ∨ c < cells := by omega
  · have hi : i = x := by simpa [← hlen] using hx
    rw [← hi, Nat.add_sub_cancel, Nat.sub_self]
    exact getLsbD_shiftIn_zero rx i.1.line
  · have hold : SamplesHeld h (ins ++ [i]) cells rx := hs.append hpos (by rw [Nat.add_mul] at hlen; omega) i
    have hbit : cells + 1 - 1 - c = cells - 1 - c + 1 := by omega
    have hroom : cells - 1 - c + 1 < 16 := by omega
    rw [← hold c x hlo hlt hx, hbit]
    exact getLsbD_shiftIn_succ rx i.1.line hroom

end SamplesHeld

/-- An accepted read holds the samples of the data cells that are over, up to and including its last tick (R106). -/
theorem Mdioc.run_read_samplesHeld {P : Params} (m : Mdioc) {r : Request} (hop : r.op = .rd)
    {ins : List (MdioDraw × MdioAct)} (hins : ∀ i ∈ ins, i.1.quiet P) (hpos : 0 < m.div.toNat)
    (hlen : ins.length ≤ 128 * m.div.toNat) :
    SamplesHeld m.div.toNat ins (ins.length / m.div.toNat / 2) (Mdioc.run P ins (m.accept r)).rx := by
  induction ins using List.reverseRecOn with
  | nil => exact SamplesHeld.of_le (by simp)
  | append_singleton ins i ih =>
    rw [List.length_append, List.length_singleton] at hlen ⊢
    obtain ⟨hpre, hlast⟩ := List.forall_mem_append.mp hins
    have hq : i.1.quiet P := hlast i (List.mem_singleton_self i)
    have hrun := m.run_accept_running r hpre (by omega)
    have hheld := ih hpre (by omega)
    rw [Mdioc.run_append, Mdioc.run_cons, Mdioc.run_nil]
    by_cases hend : ins.length % m.div.toNat + 1 = m.div.toNat ∧ ins.length / m.div.toNat % 2 = 1
    · obtain ⟨hcells, hticks⟩ := cells_succ_cellEnd hend.1 hend.2
      rw [hcells, hrun.tick_rx_cellEnd hq hend.1 hend.2]
      by_cases hdata : 48 ≤ ins.length / m.div.toNat / 2
      · rw [hrun.sample_rx_read hop hdata]
        exact hheld.sample hpos hticks (hrun.cell ▸ (Mdioc.cell _).isLt) i
      · exact SamplesHeld.of_le (by omega)
    · rw [cells_succ_inside hpos hend, hrun.tick_rx_inside hq hpos hend]
      exact hheld.append hpos (cells_mul_le ins.length m.div.toNat) i

/-- Settles O19: the last tick ends cell 63, so all sixteen samples are held, and it completes the read with them. -/
theorem readReturnsSixteenSamples : Obligations.ReadReturnsSixteenSamples := by
  intro P m phy reg ins hins hpos hlen c x hlo hhi hx
  have hheld := m.run_read_samplesHeld (r := readRequest phy reg) rfl hins hpos hlen.le
  have hcells : ins.length / m.div.toNat / 2 = 64 := by rw [hlen, Nat.mul_div_cancel _ hpos]
  have hrdata : (Mdioc.run P ins (m.accept (readRequest phy reg))).rdata =
      (Mdioc.run P ins (m.accept (readRequest phy reg))).rx := by
    obtain rfl | ⟨pre, i, rfl⟩ := ins.eq_nil_or_concat
    · rw [List.length_nil] at hlen; omega
    · rw [List.concat_eq_append] at hins hlen ⊢
      rw [List.length_append, List.length_singleton] at hlen
      obtain ⟨hpre, hlast⟩ := List.forall_mem_append.mp hins
      rw [Mdioc.run_append]
      exact (m.run_accept_running _ hpre (by omega)).tick_rdata_complete rfl (hlast i (List.mem_singleton_self i)) hlen
  rw [hrdata, ← hheld c x hlo (by omega) hx, hcells]

end Sys2Proof.Machine

/-! PROOFS. Family 42_clock_sequencer.md: the stages of CLKSEQ one by one (O30 to O34), the order in which they run (O35), what a
failure leaves behind (O36) and that the sequence runs at most once (O37), with the rule of a stage that waits for ANALOG, which
they share. -/

namespace Sys2Proof.Machine

/-! ## A stage that waits for ANALOG (42_clock_sequencer.md R142, R145, R146, R149) -/

/-- A tick from `c` to `t` in a stage that checks the plan and then waits for ANALOG: it fails with `e` or succeeds in `done`. -/
structure Clkseq.WaitingTick (legal : Prop) (ans : Answer) (e : StageError) (c done t : Clkseq) : Prop where
  illegal : ¬ legal → t = c.fail e
  wait : legal → ans = .none → t = c
  ok : legal → ans = .ok → t = done
  fail : legal → ans = .fail → t = c.fail e

namespace Clkseq.WaitingTick

variable {legal legal' illegal : Prop} {ans : Answer} {e : StageError} {c done t : Clkseq}

/-- The form in which the lemmas `Clkseq.xoscTick_cases` to `Clkseq.clkTick_cases` give a stage. -/
theorem of_cases (hill : illegal → ¬ legal)
    (h : (illegal ∧ t = c.fail e) ∨ (legal ∧ ans = .none ∧ t = c) ∨ (legal ∧ ans = .ok ∧ t = done) ∨
      (legal ∧ ans = .fail ∧ t = c.fail e)) :
    WaitingTick legal ans e c done t := by
  obtain ⟨hi, ht⟩ | ⟨hl, rfl, ht⟩ | ⟨hl, rfl, ht⟩ | ⟨hl, rfl, ht⟩ := h
  · exact ⟨fun _ => ht, fun hl => absurd hl (hill hi), fun hl => absurd hl (hill hi), fun hl => absurd hl (hill hi)⟩
  · exact ⟨absurd hl, fun _ _ => ht, nofun, nofun⟩
  · exact ⟨absurd hl, nofun, fun _ _ => ht, nofun⟩
  · exact ⟨absurd hl, nofun, nofun, fun _ _ => ht⟩

/-- The stage's check may be written in any equivalent form. -/
theorem congr (h : WaitingTick legal ans e c done t) (hlegal : legal ↔ legal') : WaitingTick legal' ans e c done t :=
  propext hlegal ▸ h

/-- Whatever the plan and the answer, the stage stays, succeeds or fails. -/
theorem outcome (h : WaitingTick legal ans e c done t) : t = c ∨ t = done ∨ t = c.fail e := by
  by_cases hl : legal
  · cases ha : ans with
    | none => exact .inl (h.wait hl ha)
    | ok => exact .inr (.inl (h.ok hl ha))
    | fail => exact .inr (.inr (h.fail hl ha))
  · exact .inr (.inr (h.illegal hl))

end Clkseq.WaitingTick

section
variable (P : Params) {d : SeqDraw} (a : SeqAct) {c : Clkseq} (hr : d.rst = false)
include hr

theorem Clkseq.tick_xosc (hs : c.stage = .xosc) :
    Clkseq.WaitingTick (c.plan.fxosc ≠ 0#32) d.answer .oscillatorStartFailed c
      { c with freqXosc := c.plan.fxosc, stage := .wdt } (c.tick P d a) := by
  have htick : c.tick P d a = c.xoscTick d.answer := by simp [Clkseq.tick, hr, hs]
  exact htick ▸ .of_cases not_not_intro (c.xoscTick_cases d.answer)

theorem Clkseq.tick_wdt (hs : c.stage = .wdt) : c.tick P d a = c.wdtTick := by
  simp [Clkseq.tick, hr, hs]

theorem Clkseq.tick_pllSys (hs : c.stage = .pllSys) :
    Clkseq.WaitingTick (pllLegal P c.plan.fxosc c.plan.sysVco c.plan.sysDiv = true) d.answer .systemPllFailed c
      { c with freqPllSys := pllFout c.plan.sysVco c.plan.sysDiv, stage := .pllUsb } (c.tick P d a) := by
  have htick : c.tick P d a = c.pllSysTick P d.answer := by simp [Clkseq.tick, hr, hs]
  exact htick ▸ .of_cases Bool.eq_false_iff.mp (c.pllSysTick_cases P d.answer)

theorem Clkseq.tick_pllUsb (hs : c.stage = .pllUsb) :
    Clkseq.WaitingTick (pllLegal P c.plan.fxosc c.plan.usbVco c.plan.usbDiv = true) d.answer .usbPllFailed c
      { c with freqPllUsb := pllFout c.plan.usbVco c.plan.usbDiv, stage := .clk .ref } (c.tick P d a) := by
  have htick : c.tick P d a = c.pllUsbTick P d.answer := by simp [Clkseq.tick, hr, hs]
  exact htick ▸ .of_cases Bool.eq_false_iff.mp (c.pllUsbTick_cases P d.answer)

theorem Clkseq.tick_clk {k : DClk} (hs : c.stage = .clk k) :
    Clkseq.WaitingTick (clkLegal (c.source k) (perClkGet c.plan.target k) = true) d.answer (.derivedClockFailed k) c
      { c with
        freqClk := perClkSet c.freqClk k (clkFreq (c.source k) (perClkGet c.plan.target k))
        stage := stageAfter k } (c.tick P d a) := by
  have htick : c.tick P d a = c.clkTick k d.answer := by simp [Clkseq.tick, hr, hs]
  exact htick ▸ .of_cases Bool.eq_false_iff.mp (c.clkTick_cases k d.answer)

theorem Clkseq.tick_terminal (hs : c.stage = .done ∨ c.stage = .failed) : c.tick P d a = c := by
  obtain hs | hs := hs <;> simp [Clkseq.tick, hr, hs]

end

/-! ## What a tick without reset does, over all stages (R141, R156) -/

/-- The error a stage fails with (60_exceptions.md R184); WDT never fails, and a stage that does not run has none. -/
def Stage.error : Stage → Option StageError
  | .xosc => some .oscillatorStartFailed
  | .pllSys => some .systemPllFailed
  | .pllUsb => some .usbPllFailed
  | .clk k => some (.derivedClockFailed k)
  | .idle | .wdt | .done | .failed => none

/-- Only a running stage other than WDT can fail. -/
theorem Stage.running_of_error {st : Stage} {e : StageError} (h : st.error = some e) :
    1 ≤ st.number ∧ st.number ≤ 11 ∧ st ≠ .wdt := by
  cases st with
  | clk k => cases k <;> exact ⟨by decide, by decide, nofun⟩
  | xosc => exact ⟨by decide, by decide, nofun⟩
  | pllSys => exact ⟨by decide, by decide, nofun⟩
  | pllUsb => exact ⟨by decide, by decide, nofun⟩
  | _ => cases h

/-- The code of a stage's failure is read off the stage. -/
theorem Stage.code_of_error {st st' : Stage} {e : StageError} (h : st.error = some e) (e' : StageError)
    (h' : st'.error = some e') (hst : st = st') : e.code = e'.code := by
  subst hst
  rw [Option.some.inj (h.symm.trans h')]

theorem stageAfter_number (k : DClk) : (stageAfter k).number = (Stage.clk k).number + 1 := by
  cases k <;> rfl

/-- A waiting stage whose successor is the next in number stays, goes on to it, or fails with its own error. -/
theorem Clkseq.WaitingTick.moves {legal : Prop} {ans : Answer} {e : StageError} {c done t : Clkseq}
    (h : Clkseq.WaitingTick legal ans e c done t) (he : c.stage.error = some e)
    (hdone : done.stage.number = c.stage.number + 1) :
    t = c ∨ (1 ≤ c.stage.number ∧ c.stage.number ≤ 11 ∧ t.stage.number = c.stage.number + 1) ∨
      ∃ e, c.stage.error = some e ∧ t = c.fail e := by
  obtain ⟨hlo, hhi, -⟩ := Stage.running_of_error he
  obtain h | h | h := h.outcome
  · exact .inl h
  · exact .inr (.inl ⟨hlo, hhi, h ▸ hdone⟩)
  · exact .inr (.inr ⟨e, he, h⟩)

/-- Of the host's accesses only START leaves IDLE (R140). -/
theorem Clkseq.idleTick_stage (c : Clkseq) (a : SeqAct) : (c.idleTick a).stage = if a = .start then .xosc else c.stage := by
  cases a <;> rfl

/-- The host's access in IDLE, a stage that stays, one that goes to its successor, or one that fails with its own error. -/
theorem Clkseq.tick_outcome (P : Params) {d : SeqDraw} (a : SeqAct) (c : Clkseq) (hr : d.rst = false) :
    (c.stage = .idle ∧ c.tick P d a = c.idleTick a) ∨ c.tick P d a = c ∨
    (1 ≤ c.stage.number ∧ c.stage.number ≤ 11 ∧ (c.tick P d a).stage.number = c.stage.number + 1) ∨
    (∃ e, c.stage.error = some e ∧ c.tick P d a = c.fail e) := by
  cases hs : c.stage with
  | idle => exact .inl ⟨rfl, c.tick_idle P a hr hs⟩
  | xosc => exact .inr (hs ▸ (c.tick_xosc P a hr hs).moves (hs ▸ rfl) (hs ▸ rfl))
  | wdt => exact .inr (.inr (.inl ⟨by decide, by decide, by rw [c.tick_wdt P a hr hs]; rfl⟩))
  | pllSys => exact .inr (hs ▸ (c.tick_pllSys P a hr hs).moves (hs ▸ rfl) (hs ▸ rfl))
  | pllUsb => exact .inr (hs ▸ (c.tick_pllUsb P a hr hs).moves (hs ▸ rfl) (hs ▸ rfl))
  | clk k => exact .inr (hs ▸ (c.tick_clk P a hr hs).moves (hs ▸ rfl) (hs ▸ stageAfter_number k))
  | done => exact .inr (.inl (c.tick_terminal P a hr (.inl hs)))
  | failed => exact .inr (.inl (c.tick_terminal P a hr (.inr hs)))

/-- Settles O35: a tick's outcomes by number; WDT and IDLE by their own ticks. -/
theorem stagesRunInOrder : Obligations.StagesRunInOrder := by
  intro P d a c hr
  refine ⟨?_, fun hs => ?_, fun hs => ?_⟩
  · obtain ⟨hs, h⟩ | h | ⟨-, hhi, h⟩ | ⟨e, he, h⟩ := c.tick_outcome P a hr
    · rw [h, hs, c.idleTick_stage a, hs]
      split
      · exact .inr (.inl ⟨by decide, rfl⟩)
      · exact .inl rfl
    · exact .inl (congrArg Clkseq.stage h)
    · exact .inr (.inl ⟨hhi, h⟩)
    · exact .inr (.inr ⟨congrArg Clkseq.stage h, Stage.running_of_error he⟩)
  · rw [c.tick_wdt P a hr hs]; rfl
  · rw [c.tick_idle P a hr hs, c.idleTick_stage a, hs]

/-! ## Runs without reset (R156, R157) -/

/-- What every tick without reset keeps, every run without reset keeps. -/
theorem Clkseq.run_of_tick {P : Params} {p : Clkseq → Prop}
    (hp : ∀ (d : SeqDraw) (a : SeqAct) (c : Clkseq), d.rst = false → p c → p (c.tick P d a))
    {ins : List (SeqDraw × SeqAct)} (hins : ∀ i ∈ ins, i.1.rst = false) {c : Clkseq} (hc : p c) :
    p (Clkseq.run P ins c) := by
  induction ins generalizing c with
  | nil => exact hc
  | cons i ins ih =>
    obtain ⟨hr, hrest⟩ := List.forall_mem_cons.mp hins
    exact ih hrest (hp i.1 i.2 c hr hc)

/-- DONE and FAILED are terminal: a run without reset changes nothing. -/
theorem Clkseq.run_terminal (P : Params) {ins : List (SeqDraw × SeqAct)} (hins : ∀ i ∈ ins, i.1.rst = false) {c : Clkseq}
    (hs : c.stage = .done ∨ c.stage = .failed) : Clkseq.run P ins c = c :=
  Clkseq.run_of_tick (p := (· = c)) (fun _ a _ hr h => h ▸ c.tick_terminal P a hr hs) hins rfl

/-- IDLE is entered by reset alone. -/
theorem Clkseq.tick_ne_idle (P : Params) {d : SeqDraw} (a : SeqAct) {c : Clkseq} (hr : d.rst = false)
    (hs : c.stage ≠ .idle) : (c.tick P d a).stage ≠ .idle := by
  obtain ⟨hidle, -⟩ | h | ⟨-, -, h⟩ | ⟨e, -, h⟩ := c.tick_outcome P a hr
  · exact absurd hidle hs
  · rwa [h]
  · intro hidle
    rw [hidle] at h
    exact absurd h (Nat.succ_ne_zero _).symm
  · rw [h]; exact nofun

/-- Settles O37: no tick changes a terminal stage, enters IDLE, or looks at the access outside IDLE. -/
theorem sequenceRunsAtMostOnce : Obligations.SequenceRunsAtMostOnce := by
  intro P ins c hins
  exact ⟨Clkseq.run_terminal P hins,
    Clkseq.run_of_tick (p := (·.stage ≠ .idle)) (fun _ a _ hr hs => Clkseq.tick_ne_idle P a hr hs) hins,
    fun hs d => c.tick_access_irrel P d .start .none hs⟩

/-! ## Failure (R156) -/

/-- A tick ends in FAILED from another stage only by that stage's own failure. -/
theorem Clkseq.tick_failed (P : Params) {d : SeqDraw} {a : SeqAct} {c : Clkseq} (hr : d.rst = false)
    (hs : c.stage ≠ .failed) (ht : (c.tick P d a).stage = .failed) :
    ∃ e, c.stage.error = some e ∧ c.tick P d a = c.fail e := by
  obtain ⟨hidle, h⟩ | h | ⟨-, hhi, h⟩ | h := c.tick_outcome P a hr
  · rw [h, c.idleTick_stage a, hidle] at ht
    split at ht <;> cases ht
  · exact absurd (h ▸ ht) hs
  · have hthirteen : (c.tick P d a).stage.number = 13 := by rw [ht]; rfl
    omega
  · exact h

/-- Outside FAILED the sequence has reached its current stage. -/
theorem Clkseq.reached_of_ne_failed {c : Clkseq} (hs : c.stage ≠ .failed) : c.reached = c.stage.number := by
  cases h : c.stage with
  | failed => exact absurd h hs
  | _ => simp [Clkseq.reached, h]

/-- Settles O36: the tick is the stage's own failure, and the invariant before it gives the zeros. -/
theorem failureStopsAtTheFailedStage : Obligations.FailureStopsAtTheFailedStage := by
  refine ⟨fun P d a c hr hs ht => ?_, fun P ins c hins hs => Clkseq.run_terminal P hins (.inr hs)⟩
  obtain ⟨e, he, h⟩ := c.tick_failed P hr hs ht
  refine ⟨e, h, Stage.code_of_error he .oscillatorStartFailed rfl, Stage.code_of_error he .systemPllFailed rfl,
    Stage.code_of_error he .usbPllFailed rfl, fun k => Stage.code_of_error he (.derivedClockFailed k) rfl, fun hinv => ?_⟩
  rw [← Clkseq.reached_of_ne_failed hs]
  exact ⟨hinv.xoscWait, hinv.sysWait, hinv.usbWait, hinv.clkWait⟩

/-! ## The stages one by one (R142 to R149) -/

/-- Settles O30: the rule of a waiting stage, with the check FXOSC not 0. -/
theorem oscillatorStage : Obligations.OscillatorStage := by
  intro P d a c hr hs
  have hrule := c.tick_xosc P a hr hs
  exact ⟨fun hzero => hrule.illegal (not_not_intro hzero), hrule.wait, hrule.ok, hrule.fail⟩

/-- The divider always fits its register: FXOSC is below 2^32 (R143). -/
theorem Clkseq.wdtTick_wdtDiv_toNat (c : Clkseq) : c.wdtTick.wdtDiv.toNat = c.plan.fxosc.toNat / 1000000 := by
  have hlt := c.plan.fxosc.isLt
  simp only [Clkseq.wdtTick, wdtTickHz, BitVec.toNat_ofNat]
  omega

theorem Clkseq.wdtTick_wdtOk_iff (c : Clkseq) :
    c.wdtTick.wdtOk = true ↔ c.plan.fxosc.toNat % 1000000 = 0 ∧ 1000000 ≤ c.plan.fxosc.toNat :=
  Bool.and_eq_true_iff.trans (and_congr decide_eq_true_iff decide_eq_true_iff)

/-- After stage WDT the tick generator ticks at exactly 1 MHz when `wdt_ok = 1`, and only then (R143, R197). -/
theorem Clkseq.wdtTick_wdtHz_iff (c : Clkseq) (n : Nat) : c.wdtTick.wdtHz n = 1000000 ↔ c.wdtTick.wdtOk = true := by
  cases hok : c.wdtTick.wdtOk with
  | true =>
    obtain ⟨hmod, hle⟩ := c.wdtTick_wdtOk_iff.mp hok
    have hmul : c.plan.fxosc.toNat = 1000000 * c.wdtTick.wdtDiv.toNat := by
      rw [c.wdtTick_wdtDiv_toNat]; omega
    have hpos : (c.wdtTick.wdtDiv.toNat : ℚ) ≠ 0 := by
      rw [Nat.cast_ne_zero]; omega
    have hhz : c.wdtTick.wdtHz n = 1000000 := by
      rw [Clkseq.wdtHz_exact rfl hok, Clkseq.wdtTick_plan, hmul, Nat.cast_mul, mul_div_cancel_right₀ _ hpos]
      rfl
    exact iff_of_true hhz rfl
  | false =>
    have hne : c.wdtTick.wdtHz n ≠ 1000000 := by
      rw [Clkseq.wdtHz_inexact rfl hok]
      exact fun h => (Config.wdtErrorHz n).ne_zero (add_eq_left.mp h)
    exact iff_of_false hne nofun

/-- Settles O31: the divider, the flag and the frequency are those of `Clkseq.wdtTick`. -/
theorem watchdogStage : Obligations.WatchdogStage := by
  intro P d a c hr hs
  rw [c.tick_wdt P a hr hs]
  exact ⟨c.wdtTick.wdtDiv, c.wdtTick.wdtOk, rfl, c.wdtTick_wdtDiv_toNat, c.wdtTick_wdtOk_iff, c.wdtTick_wdtHz_iff⟩

/-- Settles O32: the rule of a waiting stage, with R144's conditions as its check. -/
theorem systemPllStage : Obligations.SystemPllStage := by
  intro P d a c hr hs
  have hrule := (c.tick_pllSys P a hr hs).congr (pllLegal_iff P c.plan.fxosc c.plan.sysVco c.plan.sysDiv)
  exact ⟨hrule.illegal, hrule.wait, fun hl ha => ⟨_, pllFout_toNat _ _, hrule.ok hl ha⟩, hrule.fail⟩

/-- Settles O33: as O32, with the USB registers. -/
theorem usbPllStage : Obligations.UsbPllStage := by
  intro P d a c hr hs
  have hrule := (c.tick_pllUsb P a hr hs).congr (pllLegal_iff P c.plan.fxosc c.plan.usbVco c.plan.usbDiv)
  exact ⟨hrule.illegal, hrule.wait, fun hl ha => ⟨_, pllFout_toNat _ _, hrule.ok hl ha⟩, hrule.fail⟩

/-- Settles O34: the rule of a waiting stage, with R147's check; each clock's source and successor are the model's. -/
theorem derivedClockStages : Obligations.DerivedClockStages := by
  intro P d a c k hr hs
  have hrule := (c.tick_clk P a hr hs).congr (clkLegal_iff (c.source k) (perClkGet c.plan.target k))
  cases k <;>
    exact ⟨hrule.illegal, hrule.wait, fun hl ha => ⟨_, clkFreq_toNat _ _, hrule.ok hl ha⟩, hrule.fail⟩

end Sys2Proof.Machine

/-! PROOFS. Family 60_exceptions.md: the pin failure (O23), and elapsed time across a wrap of the counter (O59). -/

namespace Sys2Proof.Machine

/-! ## The abort of a transaction (60_exceptions.md R182) -/

/-- Of the host's accesses only a write to MDIO_STATUS changes DONE in a busy tick. -/
theorem Mdioc.afterAccess_done_of_ne (P : Params) (m : Mdioc) {a : MdioAct} (ha : ∀ v, a ≠ .status v) :
    (m.afterAccess P a).done = m.done := by
  cases a with
  | status v => exact absurd rfl (ha v)
  | _ => rfl

/-- The abort comes after the host's access. -/
theorem Mdioc.tick_pinAbort_afterAccess {P : Params} {d : MdioDraw} (a : MdioAct) {m : Mdioc} (hr : d.rst = false)
    (hm : m.mstate ≠ .idle) (hp : (P.pinFallible && d.pinErr) = true) : m.tick P d a = (m.afterAccess P a).pinAbort :=
  Mdioc.tick_pinAbort P a hr hm hp

/-- Where no transaction runs, or the pin layer cannot fail, `pin_err` has no effect: draws that agree otherwise give one tick. -/
theorem Mdioc.tick_ignores_pinErr {P : Params} {d d' : MdioDraw} (a : MdioAct) {m : Mdioc}
    (h : m.mstate = .idle ∨ P.pinFallible = false) (hrst : d.rst = d'.rst) (hline : d.line = d'.line) :
    m.tick P d a = m.tick P d' a := by
  cases hr : d'.rst with
  | true => rw [m.tick_reset P a (hrst.trans hr), m.tick_reset P a hr]
  | false =>
    by_cases hm : m.mstate = .idle
    · rw [Mdioc.tick_idle P a (hrst.trans hr) hm, Mdioc.tick_idle P a hr hm]
    · have hcalm (e : Bool) : (P.pinFallible && e) = false := by rw [h.resolve_left hm, Bool.false_and]
      rw [Mdioc.tick_quiet_advance a ⟨hrst.trans hr, hcalm d.pinErr⟩ hm, Mdioc.tick_quiet_advance a ⟨hr, hcalm d'.pinErr⟩ hm,
        hline]

/-! ## PIN_FAULT is set by an abort and cleared by reset, and by nothing else (R182) -/

@[simp] theorem Mdioc.present_pinFault (m : Mdioc) (a : MdioAct) : (m.present a).pinFault = m.pinFault := by
  cases a with
  | request r => cases hp : m.pinFault <;> simp [Mdioc.present, hp]
  | _ => rfl

@[simp] theorem Mdioc.lowTick_pinFault (m : Mdioc) : m.lowTick.pinFault = m.pinFault := by
  obtain ⟨-, h⟩ | ⟨-, h⟩ := m.lowTick_cases <;> rw [h]

@[simp] theorem Mdioc.highTick_pinFault (m : Mdioc) (b : Bool) : (m.highTick b).pinFault = m.pinFault := by
  obtain ⟨-, h⟩ | ⟨-, -, h⟩ | ⟨-, -, h⟩ := m.highTick_cases b <;> simp [h]

@[simp] theorem Mdioc.advance_pinFault (m : Mdioc) (b : Bool) : (m.advance b).pinFault = m.pinFault := by
  cases hm : m.mstate <;> simp [Mdioc.advance, hm]

/-- PIN_FAULT stays in every tick without reset. -/
theorem Mdioc.tick_pinFault_stays (P : Params) {d : MdioDraw} (a : MdioAct) {m : Mdioc} (hr : d.rst = false)
    (hf : m.pinFault = true) : (m.tick P d a).pinFault = true := by
  by_cases hm : m.mstate = .idle
  · rw [Mdioc.tick_idle P a hr hm, Mdioc.present_pinFault, Mdioc.hostStore_pinFault, hf]
  · cases hp : P.pinFallible && d.pinErr with
    | true => rw [Mdioc.tick_pinAbort_afterAccess a hr hm hp, Mdioc.pinAbort_pinFault]
    | false => rw [Mdioc.tick_quiet_advance a ⟨hr, hp⟩ hm, Mdioc.advance_pinFault, Mdioc.afterAccess_pinFault, hf]

/-- Settles O23: the abort keeps the lines and the results; with PIN_FAULT set a command in IDLE is rejected. -/
theorem pinFaultAbortsTransaction : Obligations.PinFaultAbortsTransaction := by
  refine ⟨fun P d a m hr hm hfall herr => ?_, fun P d a m h => Mdioc.tick_ignores_pinErr a h rfl rfl,
    fun P d a m hr hf => ⟨m.tick_pinFault_stays P a hr hf, fun hm ha => ?_⟩⟩
  · have habort : m.tick P d a = (m.afterAccess P a).pinAbort :=
      Mdioc.tick_pinAbort_afterAccess a hr hm (by rw [hfall, herr]; rfl)
    have hdone (ha : ∀ v, a ≠ .status v) : (m.afterAccess P a).done = m.done := m.afterAccess_done_of_ne P ha
    simpa [habort] using hdone
  · rw [Mdioc.tick_idle P a hr hm, m.hostStore_of_isCommand P ha]
    exact Mdioc.present_rejected ha (.inl hf)

/-! ## Elapsed time (R196) -/

/-- The wrapping subtraction undoes the wrapping addition, and `k` fits the counter. -/
theorem elapsed_add_ofNat (P : Params) (start : BitVec P.microsWidth) {k : Nat} (hk : k < 2 ^ P.microsWidth) :
    elapsed P (start + BitVec.ofNat P.microsWidth k) start = k := by
  rw [elapsed, add_sub_cancel_left, BitVec.toNat_ofNat, Nat.mod_eq_of_lt hk]

theorem delayOver_iff (P : Params) (n : Nat) (now start : BitVec P.microsWidth) :
    delayOver P n now start = true ↔ n ≤ elapsed P now start := decide_eq_true_iff

/-- Settles O59: the wait compares `n` with the elapsed time, which is `k`. -/
theorem elapsedTimeSurvivesWrap : Obligations.ElapsedTimeSurvivesWrap := by
  intro P start k n hk
  rw [delayOver_iff, elapsed_add_ofNat P start hk]
  exact ⟨rfl, Iff.rfl⟩

end Sys2Proof.Machine

/-! PROOFS. The encoding of the commands (30_encoding.md): decoding and encoding undo each other (O1, O2), every word has
one decoding (O3, O4), the frame word by shifts and ors (O5), the byte lanes (O7) and the pseudo-instructions (O53). -/

namespace Sys2Proof.Machine

/-! ## The fields of a command word (30_encoding.md R81, R86, R90) -/

section
variable (op : BitVec 2) (phy reg : BitVec 5) (ta : BitVec 2) (data : BitVec 16)

@[simp] theorem Word.data_cmdWord : Word.data (cmdWord op phy reg ta data) = data := by
  unfold Word.data cmdWord
  rw [BitVec.extractLsb'_append_eq_of_add_le (by decide), BitVec.extractLsb'_eq_self]

@[simp] theorem Word.ta_cmdWord : Word.ta (cmdWord op phy reg ta data) = ta := by
  unfold Word.ta cmdWord
  rw [BitVec.extractLsb'_append_eq_of_le (by decide), BitVec.extractLsb'_append_eq_of_add_le (by decide),
    BitVec.extractLsb'_eq_self]

@[simp] theorem Word.regad_cmdWord : Word.regad (cmdWord op phy reg ta data) = reg := by
  unfold Word.regad cmdWord
  rw [BitVec.extractLsb'_append_eq_of_le (by decide), BitVec.extractLsb'_append_eq_of_le (by decide),
    BitVec.extractLsb'_append_eq_of_add_le (by decide), BitVec.extractLsb'_eq_self]

@[simp] theorem Word.phyad_cmdWord : Word.phyad (cmdWord op phy reg ta data) = phy := by
  unfold Word.phyad cmdWord
  rw [BitVec.extractLsb'_append_eq_of_le (by decide), BitVec.extractLsb'_append_eq_of_le (by decide),
    BitVec.extractLsb'_append_eq_of_le (by decide), BitVec.extractLsb'_append_eq_of_add_le (by decide),
    BitVec.extractLsb'_eq_self]

/-- ST and OP are the top four bits. -/
theorem Word.top_four_cmdWord : (cmdWord op phy reg ta data).extractLsb' 28 4 = 0b01#2 ++ op := by
  unfold cmdWord
  rw [BitVec.extractLsb'_append_eq_of_le (by decide), BitVec.extractLsb'_append_eq_of_le (by decide),
    BitVec.extractLsb'_append_eq_of_le (by decide), BitVec.extractLsb'_append_eq_of_le (by decide),
    BitVec.extractLsb'_eq_self]

end

/-- A CMD32 word is made of its fields. -/
theorem cmdWord_fields {w : Word} (hst : Word.st w = 0b01#2) :
    cmdWord (Word.opBits w) (Word.phyad w) (Word.regad w) (Word.ta w) (Word.data w) = w := by
  rw [cmdWord, ← hst, Word.st, Word.opBits, Word.phyad, Word.regad, Word.ta, Word.data,
    BitVec.extractLsb'_append_extractLsb'_eq_extractLsb' (by rfl),
    BitVec.extractLsb'_append_extractLsb'_eq_extractLsb' (by rfl),
    BitVec.extractLsb'_append_extractLsb'_eq_extractLsb' (by rfl),
    BitVec.extractLsb'_append_extractLsb'_eq_extractLsb' (by rfl),
    BitVec.extractLsb'_append_extractLsb'_eq_extractLsb' (by rfl), BitVec.extractLsb'_eq_self]

/-! ## Decoding and encoding (R88, R92) -/

theorem decode_clkCtrl_start {w : Word} (h : w.getLsbD 0 = true) :
    decode .clkCtrl w = .instr (.clkseqStart (Word.ctrlIgnored w)) := if_pos h

theorem decode_clkCtrl_noCommand {w : Word} (h : w.getLsbD 0 = false) : decode .clkCtrl w = .reject .noCommand :=
  if_neg (Bool.eq_false_iff.mp h)

theorem decode_cmdWord_read (phy reg : BitVec 5) (ta : BitVec 2) (data : BitVec 16) :
    decode .mdioCmd (cmdWord 0b10#2 phy reg ta data) = .instr (.mdioRead phy reg ta data) := by
  rw [decode_mdioCmd_read (Word.top_four_cmdWord 0b10#2 phy reg ta data), Word.phyad_cmdWord, Word.regad_cmdWord,
    Word.ta_cmdWord, Word.data_cmdWord]

theorem decode_cmdWord_write (phy reg : BitVec 5) (ta : BitVec 2) (data : BitVec 16) :
    decode .mdioCmd (cmdWord 0b01#2 phy reg ta data) = .instr (.mdioWrite phy reg ta data) := by
  rw [decode_mdioCmd_write (Word.top_four_cmdWord 0b01#2 phy reg ta data), Word.phyad_cmdWord, Word.regad_cmdWord,
    Word.ta_cmdWord, Word.data_cmdWord]

/-- Bits 31:1 of a START word are the ignored field (R90). -/
theorem Word.ctrlIgnored_start (ignored : BitVec 31) : Word.ctrlIgnored (encode (.clkseqStart ignored)) = ignored := by
  unfold Word.ctrlIgnored encode
  rw [BitVec.extractLsb'_append_eq_of_le (by decide), BitVec.extractLsb'_eq_self]

/-- Settles O1: each operand is read off its own field of the word. -/
theorem decodeOfEncodeGivesInstruction : Obligations.DecodeOfEncodeGivesInstruction := by
  intro i
  cases i with
  | mdioRead phy reg ta data => exact decode_cmdWord_read phy reg ta data
  | mdioWrite phy reg ta data => exact decode_cmdWord_write phy reg ta data
  | clkseqStart ignored =>
    have hstart : (encode (.clkseqStart ignored)).getLsbD 0 = true := encode_clkseqStart_getLsbD ignored 0
    exact (decode_clkCtrl_start hstart).trans (by rw [Word.ctrlIgnored_start])

/-- A START word is its ignored field and the 1 in bit 0 (R90). -/
theorem encode_ctrlIgnored {w : Word} (h : w.getLsbD 0 = true) : encode (.clkseqStart (Word.ctrlIgnored w)) = w := by
  refine BitVec.eq_of_getLsbD_eq fun i hi => ?_
  rw [encode_clkseqStart_getLsbD]
  split_ifs with hzero
  · rw [show i = 0 by omega, h]
  · rw [Word.ctrlIgnored, BitVec.getLsbD_extractLsb', show 1 + (i - 1) = i by omega]
    simp [show i - 1 < 31 by omega]

/-- At MDIO_CMD a word is a read, a write or rejected, by its top four bits (R92). -/
theorem decode_mdioCmd_cases (w : Word) :
    (w.extractLsb' 28 4 = 0b0110#4 ∧
      decode .mdioCmd w = .instr (.mdioRead (Word.phyad w) (Word.regad w) (Word.ta w) (Word.data w))) ∨
    (w.extractLsb' 28 4 = 0b0101#4 ∧
      decode .mdioCmd w = .instr (.mdioWrite (Word.phyad w) (Word.regad w) (Word.ta w) (Word.data w))) ∨
    ∃ r, decode .mdioCmd w = .reject r := by
  by_cases hrd : w.extractLsb' 28 4 = 0b0110#4
  · exact .inl ⟨hrd, decode_mdioCmd_read hrd⟩
  · by_cases hwr : w.extractLsb' 28 4 = 0b0101#4
    · exact .inr (.inl ⟨hwr, decode_mdioCmd_write hwr⟩)
    · exact .inr (.inr (decode_mdioCmd_reject hrd hwr))

/-- Settles O2: the fields of a word that decodes, put together again, are the word. -/
theorem encodeOfDecodeGivesWord : Obligations.EncodeOfDecodeGivesWord := by
  intro p w i h
  refine ⟨?_, decode_port h⟩
  cases p with
  | mdioCmd =>
    obtain ⟨htop, hd⟩ | ⟨htop, hd⟩ | ⟨r, hd⟩ := decode_mdioCmd_cases w
    · obtain ⟨hst, hop⟩ := (Word.top_four_eq_read_iff w).mp htop
      obtain rfl := Decoded.instr.inj (hd.symm.trans h)
      rw [encode, Op.bits, ← hop, cmdWord_fields hst]
    · obtain ⟨hst, hop⟩ := (Word.top_four_eq_write_iff w).mp htop
      obtain rfl := Decoded.instr.inj (hd.symm.trans h)
      rw [encode, Op.bits, ← hop, cmdWord_fields hst]
    · exact absurd (hd.symm.trans h) nofun
  | clkCtrl =>
    cases hbit : w.getLsbD 0 with
    | true =>
      obtain rfl := Decoded.instr.inj ((decode_clkCtrl_start hbit).symm.trans h)
      exact encode_ctrlIgnored hbit
    | false => exact absurd ((decode_clkCtrl_noCommand hbit).symm.trans h) nofun

/-- Settles O3: the top four bits decide at MDIO_CMD, bit 0 at CLK_CTRL. -/
theorem everyWordHasOneDecoding : Obligations.EveryWordHasOneDecoding := fun _ =>
  ⟨decode_mdioCmd_read, decode_mdioCmd_write, decode_mdioCmd_reject, decode_clkCtrl_start, decode_clkCtrl_noCommand⟩

/-- Settles O4: the eight words are fixed, and the decoder computes. -/
theorem specWordsDecode : Obligations.SpecWordsDecode := by
  unfold Obligations.SpecWordsDecode
  decide

/-! ## The frame word (R87) -/

/-- A field moved up by `k` bits, bit by bit. -/
theorem getLsbD_field_shiftLeft {n : Nat} (x : BitVec n) (k : Nat) {i : Nat} (hi : i < 32) :
    (x.setWidth 32 <<< k).getLsbD i = (decide (k ≤ i) && x.getLsbD (i - k)) := by
  have hlow : i - k < 32 := by omega
  simp only [BitVec.getLsbD_shiftLeft, BitVec.getLsbD_setWidth, hi, hlow, decide_true, Bool.true_and, ← Nat.not_le,
    decide_not, Bool.not_not]

/-- A command word by shifts and ors: a bit lies in one field, above the ones below it and below the ones above it. -/
theorem cmdWord_eq_shifts (op : BitVec 2) (phy reg : BitVec 5) (ta : BitVec 2) (data : BitVec 16) :
    cmdWord op phy reg ta data =
      (((((0b01#2).setWidth 32 <<< 30 ||| op.setWidth 32 <<< 28) ||| ta.setWidth 32 <<< 16) |||
        phy.setWidth 32 <<< 23) ||| reg.setWidth 32 <<< 18) ||| data.setWidth 32 := by
  refine BitVec.eq_of_getLsbD_eq fun i hi => ?_
  simp only [cmdWord_getLsbD, BitVec.getLsbD_or, getLsbD_field_shiftLeft _ _ hi, BitVec.getLsbD_setWidth]
  split_ifs <;> simp (disch := omega) only [decide_eq_true, decide_eq_false, BitVec.getLsbD_of_ge, Bool.true_and,
    Bool.false_and, Bool.or_false, Bool.false_or]

/-- Settles O5: the fixed fields of the word together are the constant of R87. -/
theorem frameWordFollowsEncodingFunction : Obligations.FrameWordFollowsEncodingFunction := by
  intro phy reg data
  constructor
  · exact (cmdWord_eq_shifts _ phy reg _ 0#16).trans BitVec.or_zero
  · exact cmdWord_eq_shifts _ phy reg _ data

/-! ## Byte lanes (20_memory.md R64) -/

theorem wordOfLanes_lanes (w : Word) :
    wordOfLanes (w.extractLsb' 0 8) (w.extractLsb' 8 8) (w.extractLsb' 16 8) (w.extractLsb' 24 8) = w := by
  rw [wordOfLanes, BitVec.extractLsb'_append_extractLsb'_eq_extractLsb' (by rfl),
    BitVec.extractLsb'_append_extractLsb'_eq_extractLsb' (by rfl),
    BitVec.extractLsb'_append_extractLsb'_eq_extractLsb' (by rfl), BitVec.extractLsb'_eq_self]

/-- Settles O7: neighbouring lanes join to the bits they cover. -/
theorem byteLanesRecoverWord : Obligations.ByteLanesRecoverWord := fun p w =>
  ⟨wordOfLanes_lanes w, congrArg (decode p) (wordOfLanes_lanes w)⟩

/-! ## Pseudo-instructions (R93, R95) -/

/-- Settles O53: the command word is the frame word of R87, whose fields are the operands. -/
theorem pseudoInstructionsExpand : Obligations.PseudoInstructionsExpand := by
  intro dst phy reg value
  refine ⟨fun hp hr => ⟨enc .rd (BitVec.ofNat 5 phy) (BitVec.ofNat 5 reg) 0, ?_, decode_cmdWord_read _ _ _ _⟩,
    fun hp hr hv => ⟨enc .wr (BitVec.ofNat 5 phy) (BitVec.ofNat 5 reg) (BitVec.ofNat 16 value), ?_,
      decode_cmdWord_write _ _ _ _⟩, rfl, fun h => ?_, fun h => ?_⟩
  · exact if_pos (by simp [HostCall.wellFormed, hp, hr])
  · exact if_pos (by simp [HostCall.wellFormed, hp, hr, hv])
  · have hout : ¬ (phy < 32 ∧ reg < 32) := by omega
    exact ⟨if_neg (by simpa [HostCall.wellFormed] using hout),
      if_neg (by simpa [HostCall.wellFormed] using fun hp hr => absurd ⟨hp, hr⟩ hout)⟩
  · exact if_neg (by simpa [HostCall.wellFormed] using fun _ _ => h)

end Sys2Proof.Machine

/-! PROOFS. CLKSEQ as a whole (42_clock_sequencer.md): its invariant is kept (for O55, O56), each frequency is written
once (O41), the shortest run (O39) and the reference plan's (O40), the watchdog's frequency (O44), the derived clocks'
arithmetic (O42), START (O29), the reset state (O43) and CLK_STATUS (O45). -/

namespace Sys2Proof.Machine

/-! ## A running stage: its check and its success (R141 to R149) -/

/-- The check of the plan that the current stage makes; WDT makes none. -/
def Clkseq.passes (P : Params) (c : Clkseq) : Prop :=
  match c.stage with
  | .xosc => c.plan.fxosc ≠ 0#32
  | .pllSys => pllLegal P c.plan.fxosc c.plan.sysVco c.plan.sysDiv = true
  | .pllUsb => pllLegal P c.plan.fxosc c.plan.usbVco c.plan.usbDiv = true
  | .clk k => clkLegal (c.source k) (perClkGet c.plan.target k) = true
  | .idle | .wdt | .done | .failed => True

/-- The state in which the current stage has succeeded. -/
def Clkseq.succeed (c : Clkseq) : Clkseq :=
  match c.stage with
  | .xosc => { c with freqXosc := c.plan.fxosc, stage := .wdt }
  | .wdt => c.wdtTick
  | .pllSys => { c with freqPllSys := pllFout c.plan.sysVco c.plan.sysDiv, stage := .pllUsb }
  | .pllUsb => { c with freqPllUsb := pllFout c.plan.usbVco c.plan.usbDiv, stage := .clk .ref }
  | .clk k =>
    { c with
      freqClk := perClkSet c.freqClk k (clkFreq (c.source k) (perClkGet c.plan.target k))
      stage := stageAfter k }
  | .idle | .done | .failed => c

/-- A running stage is one of the eleven that `succeed` moves on. -/
def Stage.running (st : Stage) : Prop := 1 ≤ st.number ∧ st.number ≤ 11

theorem Clkseq.succeed_number {c : Clkseq} (hrun : c.stage.running) : c.succeed.stage.number = c.stage.number + 1 := by
  obtain ⟨hlo, hhi⟩ := hrun
  cases hs : c.stage with
  | clk k => simpa [Clkseq.succeed, hs] using stageAfter_number k
  | xosc => simp [Clkseq.succeed, hs, Stage.number]
  | wdt => simp [Clkseq.succeed, Clkseq.wdtTick, hs, Stage.number]
  | pllSys => simp [Clkseq.succeed, hs, Stage.number]
  | pllUsb => simp [Clkseq.succeed, hs, Stage.number, clkIndex]
  | _ => simp [hs, Stage.number] at hlo hhi

@[simp] theorem Clkseq.succeed_plan (c : Clkseq) : c.succeed.plan = c.plan := by
  cases hs : c.stage <;> simp [Clkseq.succeed, hs]

@[simp] theorem Clkseq.succeed_err (c : Clkseq) : c.succeed.err = c.err := by
  cases hs : c.stage <;> simp [Clkseq.succeed, Clkseq.wdtTick, hs]

/-- A tick of a running stage: WDT succeeds; every other stage checks, then waits for ANALOG. -/
theorem Clkseq.tick_running (P : Params) {d : SeqDraw} (a : SeqAct) {c : Clkseq} (hr : d.rst = false)
    (hrun : c.stage.running) :
    (c.stage = .wdt ∧ c.tick P d a = c.succeed) ∨
    ∃ e, c.stage.error = some e ∧ Clkseq.WaitingTick (c.passes P) d.answer e c c.succeed (c.tick P d a) := by
  obtain ⟨hlo, hhi⟩ := hrun
  cases hs : c.stage with
  | wdt => exact .inl ⟨rfl, by rw [c.tick_wdt P a hr hs, Clkseq.succeed, hs]⟩
  | xosc => exact .inr ⟨_, rfl, by simpa [Clkseq.passes, Clkseq.succeed, hs] using c.tick_xosc P a hr hs⟩
  | pllSys => exact .inr ⟨_, rfl, by simpa [Clkseq.passes, Clkseq.succeed, hs] using c.tick_pllSys P a hr hs⟩
  | pllUsb => exact .inr ⟨_, rfl, by simpa [Clkseq.passes, Clkseq.succeed, hs] using c.tick_pllUsb P a hr hs⟩
  | clk k => exact .inr ⟨_, rfl, by simpa [Clkseq.passes, Clkseq.succeed, hs] using c.tick_clk P a hr hs⟩
  | _ => simp [hs, Stage.number] at hlo hhi

/-- Everything a tick without reset can do, stage by stage or not. -/
theorem Clkseq.tick_transition (P : Params) {d : SeqDraw} (a : SeqAct) (c : Clkseq) (hr : d.rst = false) :
    (c.stage = .idle ∧ c.tick P d a = c.idleTick a) ∨ c.tick P d a = c ∨
    (c.stage.running ∧ c.passes P ∧ c.tick P d a = c.succeed) ∨
    (∃ e, c.stage.error = some e ∧ c.tick P d a = c.fail e) := by
  by_cases hrun : c.stage.running
  · obtain ⟨hs, h⟩ | ⟨e, he, h⟩ := c.tick_running P a hr hrun
    · exact .inr (.inr (.inl ⟨hrun, by simp [Clkseq.passes, hs], h⟩))
    · by_cases hp : c.passes P
      · cases ha : d.answer with
        | none => exact .inr (.inl (h.wait hp ha))
        | ok => exact .inr (.inr (.inl ⟨hrun, hp, h.ok hp ha⟩))
        | fail => exact .inr (.inr (.inr ⟨e, he, h.fail hp ha⟩))
      · exact .inr (.inr (.inr ⟨e, he, h.illegal hp⟩))
  · by_cases hs : c.stage = .idle
    · exact .inl ⟨hs, c.tick_idle P a hr hs⟩
    · refine .inr (.inl (c.tick_terminal P a hr ?_))
      cases h : c.stage with
      | done => exact .inl rfl
      | failed => exact .inr rfl
      | idle => exact absurd h hs
      | clk k => exact absurd (by cases k <;> simp [h, Stage.running, Stage.number, clkIndex]) hrun
      | _ => exact absurd (by simp [h, Stage.running, Stage.number]) hrun

/-! ## The invariant, as the stages that have succeeded and those still to come (10_state.md R39) -/

/-- The stages below number `n` have left the values the plan gives. -/
structure Clkseq.Succeeded (P : Params) (n : Nat) (c : Clkseq) : Prop where
  xosc : 2 ≤ n → c.freqXosc = c.plan.fxosc ∧ c.plan.fxosc ≠ 0#32
  wdt : 3 ≤ n → c.wdtDiv = c.wdtTick.wdtDiv ∧ c.wdtOk = c.wdtTick.wdtOk
  sys : 4 ≤ n → pllLegal P c.plan.fxosc c.plan.sysVco c.plan.sysDiv = true ∧
    c.freqPllSys = pllFout c.plan.sysVco c.plan.sysDiv
  usb : 5 ≤ n → pllLegal P c.plan.fxosc c.plan.usbVco c.plan.usbDiv = true ∧
    c.freqPllUsb = pllFout c.plan.usbVco c.plan.usbDiv
  clk : ∀ k, 6 + clkIndex k ≤ n → clkLegal (c.source k) (perClkGet c.plan.target k) = true ∧
    perClkGet c.freqClk k = clkFreq (c.source k) (perClkGet c.plan.target k)

/-- The stages from number `n` on have left nothing. -/
structure Clkseq.Pending (n : Nat) (c : Clkseq) : Prop where
  xosc : n ≤ 1 → c.freqXosc = 0#32
  wdt : n ≤ 2 → c.wdtDiv = 0#16 ∧ c.wdtOk = false
  sys : n ≤ 3 → c.freqPllSys = 0#32
  usb : n ≤ 4 → c.freqPllUsb = 0#32
  clk : ∀ k, n ≤ 5 + clkIndex k → perClkGet c.freqClk k = 0#32

theorem Clkseq.inv_iff (P : Params) (c : Clkseq) :
    c.Inv P ↔ (c.err = none ↔ c.stage ≠ .failed) ∧ c.Pending c.reached ∧ c.Succeeded P c.reached := by
  have hok : (c.wdtOk = true ↔ c.plan.fxosc.toNat % wdtTickHz = 0 ∧ wdtTickHz ≤ c.plan.fxosc.toNat) ↔
      c.wdtOk = c.wdtTick.wdtOk := (iff_congr Iff.rfl c.wdtTick_wdtOk_iff.symm).trans Bool.eq_iff_iff.symm
  constructor
  · intro h
    exact ⟨h.errIff, ⟨h.xoscWait, h.wdtWait, h.sysWait, h.usbWait, h.clkWait⟩,
      ⟨h.xoscDone, fun hn => (h.wdtDone hn).imp_right hok.mp, h.sysDone, h.usbDone, h.clkDone⟩⟩
  · rintro ⟨herr, hw, hd⟩
    exact ⟨herr, hw.xosc, hd.xosc, hw.wdt, fun hn => (hd.wdt hn).imp_right hok.mpr, hw.sys, hd.sys, hw.usb, hd.usb,
      hw.clk, hd.clk⟩

section
variable {P : Params} {c : Clkseq}

/-- No stage has succeeded before XOSC does. -/
theorem Clkseq.Succeeded.of_le {n : Nat} (hn : n ≤ 1) : c.Succeeded P n :=
  ⟨fun h => by omega, fun h => by omega, fun h => by omega, fun h => by omega, fun k h => by omega⟩

/-- A clock's source is fixed before its stage: a later clock's frequency is no part of it (R148). -/
theorem Clkseq.source_set {j k : DClk} (hle : clkIndex j ≤ clkIndex k) (c : Clkseq) (f : Word) (st : Stage) :
    Clkseq.source { c with freqClk := perClkSet c.freqClk k f, stage := st } j = c.source j := by
  cases j with
  | peri => cases k with
    | peri => rfl
    | gpout => rfl
    | _ => exact absurd hle (by decide)
  | gpout => cases k with
    | gpout => rfl
    | _ => exact absurd hle (by decide)
  | _ => rfl

theorem Clkseq.Succeeded.succeed (h : c.Succeeded P c.stage.number) (hrun : c.stage.running) (hp : c.passes P) :
    c.succeed.Succeeded P (c.stage.number + 1) := by
  obtain ⟨hlo, hhi⟩ := hrun
  cases hs : c.stage with
  | xosc =>
    simp only [Clkseq.passes, Clkseq.succeed, hs, Stage.number] at hp h ⊢
    exact ⟨fun _ => ⟨rfl, hp⟩, fun h => by omega, fun h => by omega, fun h => by omega, fun k h => by omega⟩
  | wdt =>
    simp only [Clkseq.succeed, hs, Stage.number] at h ⊢
    exact ⟨fun _ => h.xosc le_rfl, fun _ => ⟨rfl, rfl⟩, fun h => by omega, fun h => by omega, fun k h => by omega⟩
  | pllSys =>
    simp only [Clkseq.passes, Clkseq.succeed, hs, Stage.number] at hp h ⊢
    exact ⟨fun _ => h.xosc (by omega), fun _ => h.wdt (by omega), fun _ => ⟨hp, rfl⟩, fun h => by omega,
      fun k h => by omega⟩
  | pllUsb =>
    simp only [Clkseq.passes, Clkseq.succeed, hs, Stage.number] at hp h ⊢
    exact ⟨fun _ => h.xosc (by omega), fun _ => h.wdt (by omega), fun _ => h.sys (by omega), fun _ => ⟨hp, rfl⟩,
      fun k h => by omega⟩
  | clk k =>
    simp only [Clkseq.passes, Clkseq.succeed, hs, Stage.number] at hp h ⊢
    refine ⟨fun _ => h.xosc (by omega), fun _ => h.wdt (by omega), fun _ => h.sys (by omega), fun _ => h.usb (by omega),
      fun j hj => ?_⟩
    rw [c.source_set (by omega)]
    by_cases hjk : j = k
    · subst hjk
      exact ⟨hp, perClkGet_set_same _ _ _⟩
    · have hne : clkIndex j ≠ clkIndex k := fun h => hjk (clkIndex_injective h)
      rw [perClkGet_set_other _ _ hjk]
      exact h.clk j (by omega)
  | _ => simp [hs, Stage.number] at hlo hhi

theorem Clkseq.Pending.succeed (h : c.Pending c.stage.number) (hrun : c.stage.running) :
    c.succeed.Pending (c.stage.number + 1) := by
  obtain ⟨hlo, hhi⟩ := hrun
  cases hs : c.stage with
  | clk k =>
    simp only [Clkseq.succeed, hs, Stage.number] at h ⊢
    refine ⟨fun _ => by omega, fun _ => by omega, fun _ => by omega, fun _ => by omega, fun j hj => ?_⟩
    have hne : j ≠ k := by rintro rfl; omega
    rw [perClkGet_set_other _ _ hne]
    exact h.clk j (by omega)
  | xosc =>
    simp only [Clkseq.succeed, hs, Stage.number] at h ⊢
    exact ⟨fun _ => by omega, fun _ => h.wdt (by omega), fun _ => h.sys (by omega), fun _ => h.usb (by omega),
      fun j _ => h.clk j (by omega)⟩
  | wdt =>
    simp only [Clkseq.succeed, hs, Stage.number] at h ⊢
    exact ⟨fun _ => by omega, fun _ => by omega, fun _ => h.sys (by omega), fun _ => h.usb (by omega),
      fun j _ => h.clk j (by omega)⟩
  | pllSys =>
    simp only [Clkseq.succeed, hs, Stage.number] at h ⊢
    exact ⟨fun _ => by omega, fun _ => by omega, fun _ => by omega, fun _ => h.usb (by omega),
      fun j _ => h.clk j (by omega)⟩
  | pllUsb =>
    simp only [Clkseq.succeed, hs, Stage.number] at h ⊢
    exact ⟨fun _ => by omega, fun _ => by omega, fun _ => by omega, fun _ => by omega,
      fun j _ => h.clk j (by omega)⟩
  | _ => simp [hs, Stage.number] at hlo hhi

/-- A stage that fails has been reached. -/
theorem Clkseq.fail_reached {e : StageError} (he : c.stage.error = some e) : (c.fail e).reached = c.stage.number := by
  cases hs : c.stage <;> simp [hs, Stage.error] at he <;> subst he <;> rfl

/-- Failing keeps every value. -/
theorem Clkseq.Pending.fail {n : Nat} (h : c.Pending n) (e : StageError) : (c.fail e).Pending n :=
  ⟨h.xosc, h.wdt, h.sys, h.usb, h.clk⟩

theorem Clkseq.Succeeded.fail {n : Nat} (h : c.Succeeded P n) (e : StageError) : (c.fail e).Succeeded P n :=
  ⟨h.xosc, h.wdt, h.sys, h.usb, h.clk⟩

/-! ## Every tick keeps the invariant -/

theorem Stage.running.ne_failed {st : Stage} (hrun : st.running) : st ≠ .failed := by
  rintro rfl
  exact absurd hrun.2 (by decide)

/-- Outside FAILED the stage itself is the one that is reached. -/
theorem Clkseq.inv_iff_of_ne_failed (P : Params) (hs : c.stage ≠ .failed) :
    c.Inv P ↔ c.err = none ∧ c.Pending c.stage.number ∧ c.Succeeded P c.stage.number := by
  rw [Clkseq.inv_iff, Clkseq.reached_of_ne_failed hs, iff_true_right hs]

theorem Clkseq.reset_inv (P : Params) : (Clkseq.reset P).Inv P :=
  (Clkseq.inv_iff_of_ne_failed P (show Stage.idle ≠ .failed by decide)).mpr ⟨rfl,
    ⟨fun _ => rfl, fun _ => ⟨rfl, rfl⟩, fun _ => rfl, fun _ => rfl, fun k _ => perClkGet_zero k⟩,
    .of_le (Nat.zero_le 1)⟩

/-- The host's access in IDLE changes the plan, or the stage to XOSC; no stage has left a value yet. -/
theorem Clkseq.Inv.idleTick (h : c.Inv P) (hs : c.stage = .idle) (a : SeqAct) : (c.idleTick a).Inv P := by
  have hne : c.stage ≠ .failed := by rw [hs]; nofun
  obtain ⟨herr, hw, -⟩ := (Clkseq.inv_iff_of_ne_failed P hne).mp h
  rw [hs] at hw
  cases a with
  | none => exact h
  | plan r v =>
    have hzero : c.stage.number ≤ 1 := by rw [hs]; decide
    refine (Clkseq.inv_iff_of_ne_failed (c := c.idleTick (.plan r v)) P hne).mpr ⟨herr, ?_, .of_le hzero⟩
    rw [show (c.idleTick (.plan r v)).stage = .idle from hs]
    exact ⟨hw.xosc, hw.wdt, hw.sys, hw.usb, hw.clk⟩
  | start =>
    refine (Clkseq.inv_iff_of_ne_failed P (show Stage.xosc ≠ .failed by decide)).mpr ⟨herr, ?_, .of_le le_rfl⟩
    exact ⟨fun _ => hw.xosc (by decide), fun _ => hw.wdt (by decide), fun _ => hw.sys (by decide),
      fun _ => hw.usb (by decide), fun k _ => hw.clk k (Nat.zero_le _)⟩

theorem Clkseq.Inv.fail (h : c.Inv P) {e : StageError} (he : c.stage.error = some e) : (c.fail e).Inv P := by
  have hne : c.stage ≠ .failed := by rintro hs; rw [hs] at he; cases he
  obtain ⟨-, hw, hd⟩ := (Clkseq.inv_iff_of_ne_failed P hne).mp h
  refine (Clkseq.inv_iff P _).mpr ⟨iff_of_false nofun (not_not_intro rfl), ?_⟩
  rw [Clkseq.fail_reached he]
  exact ⟨hw.fail e, hd.fail e⟩

theorem Clkseq.Inv.succeed (h : c.Inv P) (hrun : c.stage.running) (hp : c.passes P) : c.succeed.Inv P := by
  obtain ⟨herr, hw, hd⟩ := (Clkseq.inv_iff_of_ne_failed P hrun.ne_failed).mp h
  have hnum := Clkseq.succeed_number hrun
  have hne : c.succeed.stage ≠ .failed := by
    intro hs
    obtain ⟨-, hhi⟩ := hrun
    rw [hs, Stage.number] at hnum
    omega
  rw [Clkseq.inv_iff_of_ne_failed P hne, hnum, c.succeed_err]
  exact ⟨herr, hw.succeed hrun, hd.succeed hrun hp⟩

theorem Clkseq.Inv.tick (h : c.Inv P) (d : SeqDraw) (a : SeqAct) : (c.tick P d a).Inv P := by
  cases hr : d.rst with
  | true => rw [c.tick_reset P a hr]; exact Clkseq.reset_inv P
  | false =>
    obtain ⟨hs, ht⟩ | ht | ⟨hrun, hp, ht⟩ | ⟨e, he, ht⟩ := c.tick_transition P a hr
    · rw [ht]; exact h.idleTick hs a
    · rw [ht]; exact h
    · rw [ht]; exact h.succeed hrun hp
    · rw [ht]; exact h.fail he

end

/-! ## Each frequency is written once (10_state.md R39) -/

/-- Settles O41: only a success writes a frequency, that of its own stage, which was 0 until then. -/
theorem realizedFrequencyIsWrittenOnce : Obligations.RealizedFrequencyIsWrittenOnce := by
  intro P d a c hr hinv t
  have htick : (c.stage = .idle ∧ t = c.idleTick a) ∨ t = c ∨ (c.stage.running ∧ c.passes P ∧ t = c.succeed) ∨
      ∃ e, c.stage.error = some e ∧ t = c.fail e := c.tick_transition P a hr
  obtain ⟨-, ht⟩ | ht | ⟨hrun, -, ht⟩ | ⟨e, -, ht⟩ := htick
  · cases a <;> simp [ht, Clkseq.idleTick]
  · simp [ht]
  · obtain ⟨-, hw, -⟩ := (Clkseq.inv_iff_of_ne_failed P hrun.ne_failed).mp hinv
    cases hs : c.stage with
    | xosc =>
      rw [hs] at hw
      simp [ht, Clkseq.succeed, hs, hw.xosc le_rfl]
    | wdt => simp [ht, Clkseq.succeed, Clkseq.wdtTick, hs]
    | pllSys =>
      rw [hs] at hw
      simp [ht, Clkseq.succeed, hs, hw.sys le_rfl]
    | pllUsb =>
      rw [hs] at hw
      simp [ht, Clkseq.succeed, hs, hw.usb le_rfl]
    | clk k =>
      rw [hs] at hw
      have hother (j : DClk) (hj : j ≠ k) : perClkGet t.freqClk j = perClkGet c.freqClk j := by
        simp [ht, Clkseq.succeed, hs, perClkGet_set_other _ _ hj]
      have hown (j : DClk) (hj : perClkGet t.freqClk j ≠ perClkGet c.freqClk j) : j = k := not_imp_comm.mp (hother j) hj
      refine ⟨?_, ?_, ?_, fun j hj => ?_⟩
      · simp [ht, Clkseq.succeed, hs]
      · simp [ht, Clkseq.succeed, hs]
      · simp [ht, Clkseq.succeed, hs]
      · obtain rfl := hown j hj
        exact ⟨hw.clk j le_rfl, rfl, by rw [ht, Clkseq.succeed_number hrun, hs]⟩
    | _ =>
      obtain ⟨hlo, hhi⟩ := hrun
      simp [hs, Stage.number] at hlo hhi
  · simp [ht]

/-! ## The shortest run (R159) -/

section
variable {P : Params} {c : Clkseq}

/-- Once the stages before clock k's have succeeded, its source is the one the plan gives (R148). -/
theorem Clkseq.Succeeded.source_eq {k : DClk} (h : c.Succeeded P (5 + clkIndex k)) :
    c.source k = Plan.source c.plan k := by
  cases k with
  | ref => exact (h.xosc (by decide)).1
  | sys => exact (h.sys (by decide)).2
  | usb => exact (h.usb (by decide)).2
  | adc => exact (h.usb (by decide)).2
  | rtc => exact (h.usb (by decide)).2
  | peri => exact (h.clk .sys (by decide)).2.trans (by rw [Clkseq.source, (h.sys (by decide)).2]; rfl)
  | gpout => exact (h.clk .sys (by decide)).2.trans (by rw [Clkseq.source, (h.sys (by decide)).2]; rfl)

theorem Clkseq.Succeeded.mono {m n : Nat} (h : c.Succeeded P n) (hmn : m ≤ n) : c.Succeeded P m :=
  ⟨fun hm => h.xosc (hm.trans hmn), fun hm => h.wdt (hm.trans hmn), fun hm => h.sys (hm.trans hmn),
    fun hm => h.usb (hm.trans hmn), fun k hm => h.clk k (hm.trans hmn)⟩

/-- A legal plan passes the check of whichever stage has been reached. -/
theorem Clkseq.Succeeded.passes (h : c.Succeeded P c.stage.number) (hp : Plan.Legal P c.plan) : c.passes P := by
  cases hs : c.stage with
  | xosc => simpa [Clkseq.passes, hs] using hp.fxosc
  | pllSys => simpa [Clkseq.passes, hs] using hp.sys
  | pllUsb => simpa [Clkseq.passes, hs] using hp.usb
  | clk k =>
    rw [hs] at h
    simpa [Clkseq.passes, hs, h.source_eq] using hp.clk k
  | _ => simp [Clkseq.passes, hs]

/-- A plan by which every stage has succeeded is legal. -/
theorem Clkseq.Succeeded.legal (h : c.Succeeded P 12) : Plan.Legal P c.plan := by
  refine ⟨(h.xosc (by decide)).2, (h.sys (by decide)).1, (h.usb (by decide)).1, fun k => ?_⟩
  have hk := clkIndex_lt k
  rw [← (h.mono (show 5 + clkIndex k ≤ 12 by omega)).source_eq]
  exact (h.clk k (by omega)).1

/-- An `ok` tick of a running stage: it succeeds, or its check fails. -/
theorem Clkseq.tick_ok {d : SeqDraw} (a : SeqAct) (hr : d.rst = false) (hok : d.answer = .ok) (hrun : c.stage.running) :
    (c.passes P ∧ c.tick P d a = c.succeed) ∨ (¬ c.passes P ∧ (c.tick P d a).stage = .failed) := by
  obtain ⟨hs, h⟩ | ⟨e, -, h⟩ := c.tick_running P a hr hrun
  · exact .inl ⟨by simp [Clkseq.passes, hs], h⟩
  · by_cases hp : c.passes P
    · exact .inl ⟨hp, h.ok hp hok⟩
    · exact .inr ⟨hp, by rw [h.illegal hp]; rfl⟩

/-- With every answer `ok` each tick is a success, until a check of the plan fails. -/
theorem Clkseq.run_ok {ins : List (SeqDraw × SeqAct)} (hins : ∀ i ∈ ins, i.1.rst = false ∧ i.1.answer = .ok)
    (hlo : 1 ≤ c.stage.number) (hhi : c.stage.number + ins.length ≤ 12) (h : c.Succeeded P c.stage.number) :
    let t := Clkseq.run P ins c
    (t.stage.number = c.stage.number + ins.length ∧ t.plan = c.plan ∧ t.Succeeded P t.stage.number) ∨
    (t.stage = .failed ∧ ¬ Plan.Legal P c.plan) := by
  induction ins generalizing c with
  | nil => exact .inl ⟨rfl, rfl, h⟩
  | cons i ins ih =>
    obtain ⟨⟨hr, hok⟩, hrest⟩ := List.forall_mem_cons.mp hins
    rw [List.length_cons] at hhi ⊢
    have hrun : c.stage.running := ⟨hlo, by omega⟩
    have hnum := Clkseq.succeed_number hrun
    rw [Clkseq.run_cons]
    obtain ⟨hp, ht⟩ | ⟨hp, ht⟩ := c.tick_ok (P := P) i.2 hr hok hrun
    · rw [ht, ← c.succeed_plan, show c.stage.number + (ins.length + 1) = c.succeed.stage.number + ins.length by omega]
      exact ih hrest (by omega) (by omega) (hnum ▸ h.succeed hrun hp)
    · rw [Clkseq.run_terminal P (fun j hj => (hrest j hj).1) (.inr ht)]
      exact .inr ⟨ht, fun hlegal => hp (h.passes hlegal)⟩

/-- From XOSC, whatever values the registers hold. -/
theorem Clkseq.run_ok_xosc {ins : List (SeqDraw × SeqAct)} (hins : ∀ i ∈ ins, i.1.rst = false ∧ i.1.answer = .ok)
    (hs : c.stage = .xosc) (hlen : ins.length ≤ 11) :
    let t := Clkseq.run P ins c
    (t.stage.number = 1 + ins.length ∧ t.plan = c.plan ∧ t.Succeeded P t.stage.number) ∨
    (t.stage = .failed ∧ ¬ Plan.Legal P c.plan) := by
  have hone : c.stage.number = 1 := by rw [hs]; rfl
  rw [← hone]
  exact Clkseq.run_ok hins hone.ge (by omega) (.of_le hone.le)

end

/-- Settles O39: with `ok` answers every tick is a success or the plan's failure, and only a legal plan reaches DONE. -/
theorem shortestRunTakesOneTickAStage : Obligations.ShortestRunTakesOneTickAStage := by
  intro P ins c hins hs hlen
  obtain ⟨hnum, hplan, hd⟩ | ⟨hfailed, hillegal⟩ := Clkseq.run_ok_xosc (P := P) hins hs hlen
  · refine ⟨fun _ => hnum, fun hillegal hfull => absurd ?_ hillegal, .inr hnum⟩
    rw [hnum, hfull] at hd
    exact hplan ▸ hd.legal
  · exact ⟨fun hlegal => absurd hlegal hillegal, fun _ _ => hfailed, .inl hfailed⟩

/-! ## The reference plan (R150 to R155) -/

theorem Clkseq.run_inv {P : Params} {ins : List (SeqDraw × SeqAct)} {c : Clkseq} (h : c.Inv P) :
    (Clkseq.run P ins c).Inv P := by
  induction ins generalizing c with
  | nil => exact h
  | cons i ins ih => exact ih (h.tick i.1 i.2)

/-- The reset plan passes every check where the part adds none. -/
theorem resetPlan_legal_of_extraLegal {P : Params}
    (hextra : ∀ fref refdiv fbdiv vco pd1 pd2, P.pllExtraLegal fref refdiv fbdiv vco pd1 pd2 = true) :
    Plan.Legal P Config.resetPlan := by
  refine ⟨by decide, (pllLegal_iff ..).mpr ?_, (pllLegal_iff ..).mpr ?_, fun k => ?_⟩
  · exact ⟨by decide, by decide, by decide, by decide, by decide, by decide, hextra ..⟩
  · exact ⟨by decide, by decide, by decide, by decide, by decide, by decide, hextra ..⟩
  · cases k <;> decide

theorem Stage.eq_done_of_number {st : Stage} (h : st.number = 12) : st = .done := by
  cases st with
  | done => rfl
  | clk k => exact absurd h (by cases k <;> decide)
  | _ => exact absurd h (by decide)

/-- What a sequence that has reached DONE has left: the values the plan gives, and no error. -/
structure Clkseq.Finished (c : Clkseq) : Prop where
  stage : c.stage = .done
  err : c.err = none
  wdt : c.wdtDiv = c.wdtTick.wdtDiv ∧ c.wdtOk = c.wdtTick.wdtOk
  xosc : c.freqXosc = c.plan.fxosc
  sys : c.freqPllSys = pllFout c.plan.sysVco c.plan.sysDiv
  usb : c.freqPllUsb = pllFout c.plan.usbVco c.plan.usbDiv
  clk : ∀ k, perClkGet c.freqClk k = clkFreq (Plan.source c.plan k) (perClkGet c.plan.target k)

theorem Clkseq.Inv.finished {P : Params} {c : Clkseq} (h : c.Inv P) (hs : c.stage = .done) : c.Finished := by
  have hne : c.stage ≠ .failed := by rw [hs]; nofun
  obtain ⟨herr, -, hd⟩ := (Clkseq.inv_iff_of_ne_failed P hne).mp h
  rw [hs, Stage.number] at hd
  refine ⟨hs, herr, hd.wdt (by decide), (hd.xosc (by decide)).1, (hd.sys (by decide)).2, (hd.usb (by decide)).2,
    fun k => ?_⟩
  have hk := clkIndex_lt k
  rw [← (hd.mono (show 5 + clkIndex k ≤ 12 by omega)).source_eq]
  exact (hd.clk k (by omega)).2

/-- From reset with a legal plan, START and eleven `ok` ticks reach DONE with the plan as it was. -/
theorem Clkseq.run_reset_done {P : Params} (hlegal : Plan.Legal P P.resetPlan) :
    let t := Clkseq.run P (({ rst := false, answer := .none }, .start) ::
      List.replicate 11 ({ rst := false, answer := .ok }, .none)) (Clkseq.reset P)
    t.plan = P.resetPlan ∧ t.Finished := by
  intro t
  have hok : ∀ i ∈ List.replicate 11 (({ rst := false, answer := .ok } : SeqDraw), SeqAct.none),
      i.1.rst = false ∧ i.1.answer = .ok := fun i hi => by
    rw [List.eq_of_mem_replicate hi]
    exact ⟨rfl, rfl⟩
  have hstart : (Clkseq.reset P).tick P { rst := false, answer := .none } .start =
      { Clkseq.reset P with stage := .xosc } := Clkseq.tick_idle P .start rfl rfl
  have ht : t = Clkseq.run P (List.replicate 11 ({ rst := false, answer := .ok }, .none))
      { Clkseq.reset P with stage := .xosc } := by
    rw [← hstart]
    rfl
  obtain ⟨hnum, hplan, -⟩ | ⟨-, hillegal⟩ := Clkseq.run_ok_xosc (P := P)
    (c := { Clkseq.reset P with stage := .xosc }) hok rfl (by rw [List.length_replicate])
  · rw [← ht] at hnum hplan
    exact ⟨hplan, (Clkseq.run_inv (Clkseq.reset_inv P)).finished (Stage.eq_done_of_number hnum)⟩
  · exact absurd hlegal hillegal

/-- Settles O40: the run ends in DONE, so its registers hold what the reset plan gives. -/
theorem referencePlanFrequencies : Obligations.ReferencePlanFrequencies := by
  intro P hplan hextra
  obtain ⟨ht, hdone⟩ := Clkseq.run_reset_done (P := P) (hplan ▸ resetPlan_legal_of_extraLegal hextra)
  rw [hplan] at ht
  dsimp only
  generalize Clkseq.run P _ (Clkseq.reset P) = t at ht hdone ⊢
  obtain ⟨hdiv, hok⟩ := hdone.wdt
  have hdiv12 : t.wdtDiv = 12#16 := by rw [hdiv, Clkseq.wdtTick, ht]; rfl
  have hok1 : t.wdtOk = true := by rw [hok, Clkseq.wdtTick, ht]; rfl
  have hclk (k : DClk) :
      t.hostRead (.freq k) = clkFreq (Plan.source Config.resetPlan k) (perClkGet Config.resetPlan.target k) := by
    rw [← ht]
    exact hdone.clk k
  refine ⟨?_, ?_, ?_, ?_, ?_, hclk .ref, hclk .sys, hclk .usb, hclk .adc, hclk .rtc, hclk .peri, hclk .gpout⟩
  · rw [Clkseq.hostRead, Clkseq.status, Clkseq.busy, hdone.stage, hdone.err, hok1]; rfl
  · rw [Clkseq.hostRead, hdiv12]; rfl
  · rw [Clkseq.hostRead, hdone.xosc, ht]; rfl
  · rw [Clkseq.hostRead, hdone.sys, ht]; rfl
  · rw [Clkseq.hostRead, hdone.usb, ht]; rfl

/-! ## The watchdog's frequency (R143, R197) -/

theorem Clkseq.wdtProgrammed_of_reached {c : Clkseq} (h : 3 ≤ c.reached) : c.wdtProgrammed = true := by
  cases hs : c.stage with
  | failed =>
    cases he : c.err with
    | none => simp [Clkseq.reached, hs, he] at h
    | some e => cases e <;> simp_all [Clkseq.reached, Clkseq.wdtProgrammed]
  | _ => simp_all [Clkseq.reached, Clkseq.wdtProgrammed, Stage.number]

section
variable {P : Params} {c : Clkseq}

/-- From stage PLL_SYS on the watchdog stands as stage WDT has left it. -/
theorem Clkseq.Inv.wdt (h : c.Inv P) (hw : ¬ (c.wdtDiv = 0#16 ∧ c.wdtOk = false)) :
    c.wdtProgrammed = true ∧ c.wdtDiv = c.wdtTick.wdtDiv ∧ c.wdtOk = c.wdtTick.wdtOk := by
  obtain ⟨-, hpending, hd⟩ := (Clkseq.inv_iff P c).mp h
  have hreached : 3 ≤ c.reached := by
    by_contra hlt
    exact hw (hpending.wdt (by omega))
  exact ⟨Clkseq.wdtProgrammed_of_reached hreached, hd.wdt hreached⟩

theorem Clkseq.wdtHz_ne {n : Nat} (hp : c.wdtProgrammed = true) (hok : c.wdtOk = false) : c.wdtHz n ≠ 1000000 := by
  rw [Clkseq.wdtHz_inexact hp hok]
  exact fun h => (Config.wdtErrorHz n).ne_zero (add_eq_left.mp h)

end

/-- Settles O44: with `wdt_ok = 1` FXOSC is `wdt_div` times 1 MHz; with `wdt_ok = 0` it is not. -/
theorem watchdogTicksAtOneMegahertz : Obligations.WatchdogTicksAtOneMegahertz := by
  intro P n c
  refine ⟨fun hinv hok => ?_, Clkseq.wdtHz_ne, fun hinv hok hdiv hone => ?_⟩
  · obtain ⟨hp, hdiv, hok'⟩ := hinv.wdt (by simp [hok])
    have hexact := Clkseq.wdtHz_exact (n := n) hp hok
    refine ⟨hexact, ?_⟩
    have hone := (c.wdtTick_wdtHz_iff n).mpr (hok'.symm.trans hok)
    rwa [Clkseq.wdtHz_exact rfl (hok'.symm.trans hok), Clkseq.wdtTick_plan, ← hdiv, ← hexact] at hone
  · have hne : c.wdtDiv ≠ 0#16 := by rintro h; rw [h] at hdiv; exact absurd hdiv (by decide)
    obtain ⟨-, -, hok'⟩ := hinv.wdt (fun h => hne h.1)
    have hpos : (c.wdtDiv.toNat : ℚ) ≠ 0 := by rw [Nat.cast_ne_zero]; omega
    have hmul : c.plan.fxosc.toNat = 1000000 * c.wdtDiv.toNat := by
      rw [div_eq_iff hpos] at hone
      exact_mod_cast hone
    have hexact : c.wdtTick.wdtOk = true := c.wdtTick_wdtOk_iff.mpr (by omega)
    rw [← hok', hok] at hexact
    cases hexact

/-! ## Derived-clock arithmetic (R147, 90_conflicts.md C7) -/

/-- `ceil_div` is the least divider whose exact quotient does not exceed the target. -/
theorem ceilDiv_le_iff {src T : Nat} (hT : 1 ≤ T) (D : Nat) : ceilDiv src T ≤ D ↔ src ≤ D * T := by
  rw [ceilDiv, Nat.div_le_iff_le_mul_add_pred hT, Nat.mul_comm T D]
  omega

theorem ceilDiv_of_dvd {src T : Nat} (hT : 1 ≤ T) (hdvd : T ∣ src) : ceilDiv src T = src / T := by
  obtain ⟨q, rfl⟩ := hdvd
  rw [Nat.mul_div_cancel_left q hT]
  refine le_antisymm ((ceilDiv_le_iff hT q).mpr (Nat.mul_comm T q).le) ?_
  have hle := (ceilDiv_le_iff (src := T * q) hT _).mp le_rfl
  exact Nat.le_of_mul_le_mul_right ((Nat.mul_comm q T).le.trans hle) hT

theorem ceilDiv_pos {src T : Nat} (hT : 1 ≤ T) (hle : T ≤ src) : 1 ≤ ceilDiv src T := by
  by_contra h
  have := (ceilDiv_le_iff (src := src) hT 0).mp (by omega)
  omega

/-- Settles O42: each clause is a bound on the least divider. -/
theorem derivedClockNeverAboveTarget : Obligations.DerivedClockNeverAboveTarget := by
  intro src T hlegal
  obtain ⟨hT, hle⟩ := (clkLegal_iff src T).mp hlegal
  have hpos := ceilDiv_pos hT hle
  rw [clkFreq_toNat]
  refine ⟨?_, ?_, fun hdvd => ?_, fun D _ => (ceilDiv_le_iff hT D).symm⟩
  · exact Nat.div_le_of_le_mul ((ceilDiv_le_iff hT _).mp le_rfl)
  · rw [Nat.le_div_iff_mul_le hpos, Nat.one_mul]
    exact (ceilDiv_le_iff hT _).mpr (Nat.le_mul_of_pos_right _ hT)
  · refine BitVec.eq_of_toNat_eq ?_
    rw [clkFreq_toNat, ceilDiv_of_dvd hT hdvd, Nat.div_div_self hdvd (by omega)]

/-! ## START (R140, R157, R160) -/

/-- A write to CLK_CTRL with bit 0 = 0 is no command (R32, R90). -/
theorem step_writesNext_noCommand {s : State} {w : Word} {rest : List HostOp} (h : s.writesNext .clkseq 0x00 w rest)
    (hw : w.getLsbD 0 = false) : step s = .next (tickClkseq .none (s.moved rest)) := by
  have hfetch : fetch s = clkWriteAction 0x00 w (s.moved rest) := fetch_writesNext h rfl
  have hreg : clkRegAt 0x00 = some .ctrl := rfl
  simp [step, hfetch, clkWriteAction, hreg, decode_clkCtrl_noCommand hw]

/-- Settles O29: in IDLE the tick is START alone; outside it no stage looks at the access. -/
theorem startBeginsSequenceOnlyFromIdle : Obligations.StartBeginsSequenceOnlyFromIdle := by
  refine ⟨fun s x hr => ⟨fun hs => ⟨?_, rfl⟩, fun hs => ?_⟩, fun P d c hr hs => c.tick_idle P .none hr hs,
    fun s w rest => step_writesNext_noCommand⟩
  · rw [exec_clkseqStart, tickClkseq, Clkseq.tick_idle _ _ hr hs]
    rfl
  · rw [exec_clkseqStart, tickClkseq, Clkseq.tick_access_irrel _ _ .start .none hs]

/-! ## The registers at reset and CLK_STATUS (10_state.md R33, R46) -/

/-- Settles O43: the items are those of `Clkseq.reset`, with R7's plan. -/
theorem clkseqResetState : Obligations.ClkseqResetState := by
  exact ⟨rfl, rfl, rfl, rfl, rfl, rfl, rfl, rfl, rfl, rfl, rfl, rfl, rfl, rfl, rfl, rfl, rfl, rfl, rfl, rfl, rfl, rfl,
    perClkGet_zero⟩

theorem Stage.number_lt (st : Stage) : st.number < 16 := by
  cases st with
  | clk k => cases k <;> decide
  | _ => decide

theorem errCode_lt (e : Option StageError) : errCode e < 16 := by
  cases e with
  | none => decide
  | some e => cases e with
    | derivedClockFailed k => cases k <;> decide
    | _ => decide

/-- Settles O45: each field is a part of the concatenation, and stage and code fit their four bits. -/
theorem clkStatusShowsItsFields : Obligations.ClkStatusShowsItsFields := by
  intro c w
  have hw : w = 0#20 ++ BitVec.ofNat 4 (errCode c.err) ++ BitVec.ofBool c.wdtOk ++ BitVec.ofBool (c.stage == .failed) ++
      BitVec.ofBool (c.stage == .done) ++ BitVec.ofBool c.busy ++ BitVec.ofNat 4 c.stage.number := rfl
  refine ⟨?_, ?_, ?_, ?_, ?_, ?_, ?_⟩
  · rw [hw, BitVec.extractLsb'_append_eq_of_add_le (by decide), BitVec.extractLsb'_eq_self, BitVec.toNat_ofNat,
      Nat.mod_eq_of_lt c.stage.number_lt]
  · simp only [hw, BitVec.getLsbD_append, Clkseq.busy, Bool.decide_and]
    simp
  · simp only [hw, BitVec.getLsbD_append, beq_eq_decide]
    simp
  · simp only [hw, BitVec.getLsbD_append, beq_eq_decide]
    simp
  · simp only [hw, BitVec.getLsbD_append]
    simp
  · rw [hw]
    iterate 5 rw [BitVec.extractLsb'_append_eq_of_le (by decide)]
    rw [BitVec.extractLsb'_append_eq_of_add_le (by decide), BitVec.extractLsb'_eq_self, BitVec.toNat_ofNat,
      Nat.mod_eq_of_lt (errCode_lt c.err)]
  · rw [hw]
    iterate 6 rw [BitVec.extractLsb'_append_eq_of_le (by decide)]
    rw [BitVec.extractLsb'_eq_self]

end Sys2Proof.Machine

/-! PROOFS. MDIOC as a whole (41_mdio_transactions.md): the two instructions (O9, O10, O12) and reset (O13), what changes
MDIO_RDATA (O20) and the flags (O21), the line's role (O24), the line's level (O27), the exact timing (O17), MDIO_STATUS
(O28), and that every tick keeps the block's invariant (for O55). -/

namespace Sys2Proof.Machine

/-! ## The two instructions (R100, R101, R115) and reset (70_reset_and_hazards.md R210) -/

/-- Settles O9: the tick accepts the read. -/
theorem acceptedReadStartsTransaction : Obligations.AcceptedReadStartsTransaction := by
  intro s phy reg ta data hm hp hr
  rw [exec_mdioRead, tickMdioc, Mdioc.tick_accept _ _ hr hm hp, Mdioc.accept_eq]
  rfl

/-- Settles O10: the tick accepts the write. -/
theorem acceptedWriteStartsTransaction : Obligations.AcceptedWriteStartsTransaction := by
  intro s phy reg ta data hm hp hr
  rw [exec_mdioWrite, tickMdioc, Mdioc.tick_accept _ _ hr hm hp, Mdioc.accept_eq]
  rfl

/-- Settles O12: both instructions present a command, which is rejected as in O11. -/
theorem rejectedInstructionLeavesTransaction : Obligations.RejectedInstructionLeavesTransaction := by
  intro s phy reg ta data hr hbusy
  have hturned (r : Request) : s.mdioc.tick Config.params s.env.mdioDraw (.request r) =
      { s.mdioc.tick Config.params s.env.mdioDraw .none with cmdErr := true } :=
    rejectedCommandOnlySetsCmdErr _ _ _ _ hr rfl (hbusy.imp_right .inl)
  exact ⟨by rw [exec_mdioRead, tickMdioc, hturned], by rw [exec_mdioWrite, tickMdioc, hturned]⟩

/-- Settles O13: reset is looked at before the access. -/
theorem resetTickGivesResetState : Obligations.ResetTickGivesResetState := by
  refine ⟨fun P d a m hr => m.tick_reset P a hr, fun P d a c hr => c.tick_reset P a hr,
    fun s phy reg ta data hr => ⟨?_, ?_⟩, fun s x hr => ?_⟩
  · rw [exec_mdioRead, tickMdioc, Mdioc.tick_reset _ _ _ hr]
  · rw [exec_mdioWrite, tickMdioc, Mdioc.tick_reset _ _ _ hr]
  · rw [exec_clkseqStart, tickClkseq, Clkseq.tick_reset _ _ _ hr]

/-! ## What a quiet busy tick can do, in one list (R104, R105, R107) -/

/-- A quiet tick of a running transaction counts, raises MDC, completes, or enters the next cell. -/
theorem Mdioc.tick_busy_cases {P : Params} {d : MdioDraw} (a : MdioAct) {m : Mdioc} (hq : d.quiet P)
    (hm : m.mstate ≠ .idle) :
    (m.cnt.toNat + 1 < m.half.toNat ∧ m.tick P d a = { m.afterAccess P a with cnt := m.cnt + 1#16 }) ∨
    (m.mstate = .low ∧ m.half.toNat ≤ m.cnt.toNat + 1 ∧
      m.tick P d a = { m.afterAccess P a with mstate := .high, cnt := 0#16, mdc := true }) ∨
    (m.mstate = .high ∧ m.half.toNat ≤ m.cnt.toNat + 1 ∧ m.cell.toNat = 63 ∧
      m.tick P d a = ((m.afterAccess P a).sample d.line).complete) ∨
    (m.mstate = .high ∧ m.half.toNat ≤ m.cnt.toNat + 1 ∧ m.cell.toNat ≠ 63 ∧
      m.tick P d a = ((m.afterAccess P a).sample d.line).enterCell (m.cell + 1#6)) := by
  by_cases hk : m.cnt.toNat + 1 < m.half.toNat
  · exact .inl ⟨hk, Mdioc.tick_inside a hq hm hk⟩
  · have hend := Nat.not_lt.mp hk
    cases hs : m.mstate with
    | idle => exact absurd hs hm
    | low => exact .inr (.inl ⟨rfl, hend, Mdioc.tick_low_end a hq hs hend⟩)
    | high =>
      by_cases hc : m.cell.toNat = 63
      · exact .inr (.inr (.inl ⟨rfl, hend, hc, Mdioc.tick_high_complete a hq hs hend hc⟩))
      · exact .inr (.inr (.inr ⟨rfl, hend, hc, Mdioc.tick_high_next a hq hs hend hc⟩))

/-! ## MDIO_RDATA (10_state.md R27) -/

@[simp] theorem Mdioc.hostStore_rdata (P : Params) (m : Mdioc) (a : MdioAct) : (m.hostStore P a).rdata = m.rdata := by
  rw [Mdioc.hostStore_eq]

@[simp] theorem Mdioc.present_rdata (m : Mdioc) (a : MdioAct) : (m.present a).rdata = m.rdata := by
  cases a with
  | request r => cases hp : m.pinFault <;> simp [Mdioc.present, hp]
  | _ => rfl

/-- Settles O20: of all a tick can do, only the completion of a read writes `rdata`. -/
theorem readDataChangesOnlyAtReadCompletion : Obligations.ReadDataChangesOnlyAtReadCompletion := by
  intro P d a m hr hne
  by_cases hm : m.mstate = .idle
  · rw [Mdioc.tick_idle P a hr hm, Mdioc.present_rdata, Mdioc.hostStore_rdata] at hne
    exact absurd rfl hne
  · cases hp : P.pinFallible && d.pinErr with
    | true =>
      rw [Mdioc.tick_pinAbort_afterAccess a hr hm hp, Mdioc.pinAbort_rdata, Mdioc.afterAccess_rdata] at hne
      exact absurd rfl hne
    | false =>
      obtain ⟨-, h⟩ | ⟨-, -, h⟩ | ⟨hs, hend, hc, h⟩ | ⟨-, -, -, h⟩ := Mdioc.tick_busy_cases a ⟨hr, hp⟩ hm
      · simp [h] at hne
      · simp [h] at hne
      · have hop : m.op = .rd := by
          by_contra hop
          simp [h, Mdioc.complete_rdata, hop] at hne
        exact ⟨hs, BitVec.eq_of_toNat_eq hc, hop, hend, rfl, by rw [h]; rfl, by rw [h]; rfl⟩
      · simp [h] at hne

/-! ## The flags (10_state.md R41) -/

theorem Mdioc.hostStore_done_iff (P : Params) (m : Mdioc) (a : MdioAct) :
    (m.hostStore P a).done = true ↔ m.done = true ∧ ¬ ∃ v, a = .status v ∧ v.getLsbD 1 = true := by
  obtain ⟨v, rfl, h⟩ | ⟨v, rfl, h⟩ | ⟨-, hstatus, h⟩ := m.hostStore_cases P a
  · simp [h]
  · simp [h]
  · rw [h]
    exact (and_iff_left fun ⟨v, hv, _⟩ => hstatus v hv).symm

theorem Mdioc.hostStore_cmdErr_iff (P : Params) (m : Mdioc) (a : MdioAct) :
    (m.hostStore P a).cmdErr = true ↔ m.cmdErr = true ∧ ¬ ∃ v, a = .status v ∧ v.getLsbD 2 = true := by
  obtain ⟨v, rfl, h⟩ | ⟨v, rfl, h⟩ | ⟨-, hstatus, h⟩ := m.hostStore_cases P a
  · simp [h]
  · simp [h]
  · rw [h]
    exact (and_iff_left fun ⟨v, hv, _⟩ => hstatus v hv).symm

@[simp] theorem Mdioc.present_done (m : Mdioc) (a : MdioAct) : (m.present a).done = m.done := by
  cases a with
  | request r => cases hp : m.pinFault <;> simp [Mdioc.present, hp]
  | _ => rfl

/-- In IDLE a command sets CMD_ERR exactly if it is not accepted. -/
theorem Mdioc.present_cmdErr_iff (m : Mdioc) (a : MdioAct) :
    (m.present a).cmdErr = true ↔
      (a.isCommand = true ∧ ¬ (m.pinFault = false ∧ ∃ r, a = .request r)) ∨ m.cmdErr = true := by
  cases a with
  | request r => cases hp : m.pinFault <;> simp [Mdioc.present, hp, MdioAct.isCommand]
  | _ => simp [Mdioc.present, MdioAct.isCommand]

theorem Mdioc.afterAccess_done_iff (P : Params) (m : Mdioc) (a : MdioAct) :
    (m.afterAccess P a).done = true ↔ m.done = true ∧ ¬ ∃ v, a = .status v ∧ v.getLsbD 1 = true := by
  rw [← m.hostStore_done_iff P a, Mdioc.afterAccess]
  split <;> rfl

/-- In a busy tick every command sets CMD_ERR. -/
theorem Mdioc.afterAccess_cmdErr_iff (P : Params) (m : Mdioc) (a : MdioAct) :
    (m.afterAccess P a).cmdErr = true ↔
      a.isCommand = true ∨ (m.cmdErr = true ∧ ¬ ∃ v, a = .status v ∧ v.getLsbD 2 = true) := by
  rw [← m.hostStore_cmdErr_iff P a]
  cases ha : a.isCommand <;> simp [Mdioc.afterAccess, ha]

@[simp] theorem Mdioc.sample_done (m : Mdioc) (b : Bool) : (m.sample b).done = m.done := by rw [Mdioc.sample_eq]
@[simp] theorem Mdioc.sample_cmdErr (m : Mdioc) (b : Bool) : (m.sample b).cmdErr = m.cmdErr := by rw [Mdioc.sample_eq]

/-- Settles O21: an IDLE tick, an abort and each quiet busy tick, with the host's store and command before it. -/
theorem stickyFlagsFollowTheirEvents : Obligations.StickyFlagsFollowTheirEvents := by
  intro P d a m hr t completes accepted
  have ht : t = m.tick P d a := rfl
  by_cases hm : m.mstate = .idle
  · rw [Mdioc.tick_idle P a hr hm] at ht
    simp [ht, completes, accepted, hm, Mdioc.present_cmdErr_iff, Mdioc.hostStore_done_iff, Mdioc.hostStore_cmdErr_iff]
  · have hdone := m.afterAccess_done_iff P a
    have hcmd := m.afterAccess_cmdErr_iff P a
    cases hp : P.pinFallible && d.pinErr with
    | true =>
      rw [Mdioc.tick_pinAbort_afterAccess a hr hm hp] at ht
      simp [ht, completes, accepted, hm, hp, hdone, hcmd]
    | false =>
      obtain ⟨hk, h⟩ | ⟨hs, -, h⟩ | ⟨hs, hend, hc, h⟩ | ⟨hs, -, hc, h⟩ := Mdioc.tick_busy_cases a ⟨hr, hp⟩ hm
      · simp [ht, h, completes, accepted, hm, Nat.not_le.mpr hk, hdone, hcmd]
      · simp [ht, h, completes, accepted, hs, hdone, hcmd]
      · have hc63 : m.cell = 63#6 := BitVec.eq_of_toNat_eq hc
        simp [ht, h, completes, accepted, hs, hp, hend, hc63, hcmd]
      · have hc63 : m.cell ≠ 63#6 := fun h => hc (congrArg BitVec.toNat h)
        simp [ht, h, completes, accepted, hs, hc63, hdone, hcmd]

/-! ## The line's role (R118) -/

/-- From one cell to the next the role changes only into cell 46 of a read. -/
theorem Mdioc.drive_succ_ne {m : Mdioc} (hc : m.cell.toNat ≠ 63) (h : m.drive (m.cell + 1#6) ≠ m.drive m.cell) :
    m.op = .rd ∧ m.cell = 45#6 := by
  rw [m.drive_eq, m.drive_eq, Mdioc.cell_succ_toNat hc] at h
  cases hop : m.op with
  | wr => simp [hop] at h
  | rd =>
    refine ⟨rfl, BitVec.eq_of_toNat_eq (show m.cell.toNat = 45 from ?_)⟩
    by_contra hne
    have hiff : 46 ≤ m.cell.toNat + 1 ↔ 46 ≤ m.cell.toNat := by omega
    simp [hop, hiff] at h

/-- Settles O24: of all a tick can do, only reset, an acceptance, an abort and the entry of a cell write the role. -/
theorem roleSwitchesOnlyAtFrameBoundaries : Obligations.RoleSwitchesOnlyAtFrameBoundaries := by
  intro P d a m hinv t
  have ht : t = m.tick P d a := rfl
  cases hr : d.rst with
  | true =>
    rw [m.tick_reset P a hr] at ht
    simp [ht, Mdioc.reset]
  | false =>
    by_cases hm : m.mstate = .idle
    · obtain ⟨r, h⟩ | ⟨hidle, -, hrole, -⟩ := m.tick_idle_cases P a hr hm
      · rw [h, Mdioc.accept_eq] at ht
        simp [ht, hm]
      · rw [← ht] at hidle hrole
        simp [hrole, hidle, hm]
    · cases hp : P.pinFallible && d.pinErr with
      | true =>
        rw [Mdioc.tick_pinAbort_afterAccess a hr hm hp] at ht
        simp [ht, hm]
      | false =>
        obtain ⟨-, h⟩ | ⟨-, -, h⟩ | ⟨-, -, -, h⟩ | ⟨hs, -, hc, h⟩ := Mdioc.tick_busy_cases a ⟨hr, hp⟩ hm
        · simp only [ht, h, Mdioc.afterAccess_mdioRole, Mdioc.afterAccess_mstate]
          exact ⟨absurd rfl, nofun, fun _ hidle => absurd hidle hm,
            fun _ hhigh _ hlow => absurd (hhigh.symm.trans hlow) nofun, nofun⟩
        · simp [ht, h, hm]
        · simp [ht, h, hm]
        · have hrole := hinv.busyRole hm
          simp only [ht, h, Mdioc.enterCell_mdioRole, Mdioc.sample_drive, Mdioc.afterAccess_drive, hrole]
          refine ⟨fun hne => ?_, nofun, fun _ hidle => absurd hidle hm, fun _ _ hop _ hc46 => ?_, nofun⟩
          · obtain ⟨hop, hc45⟩ := Mdioc.drive_succ_ne hc hne
            exact .inr (.inr (.inl ⟨hs, hop, hc45, rfl, by rw [hc45]; rfl⟩))
          · have hc46' : m.cell + 1#6 = 46#6 := hc46
            rw [hc46', m.drive_eq, if_pos ⟨hop, by decide⟩]

/-! ## The line's level (R109) -/

/-- The block with other contents of `rx` and `rdata`. -/
def Mdioc.withData (m : Mdioc) (x y : BitVec 16) : Mdioc := { m with rx := x, rdata := y }

theorem Mdioc.withData_hostStore (P : Params) (m : Mdioc) (x y : BitVec 16) (a : MdioAct) :
    (m.withData x y).hostStore P a = (m.hostStore P a).withData x y := by cases a <;> rfl

theorem Mdioc.withData_afterAccess (P : Params) (m : Mdioc) (x y : BitVec 16) (a : MdioAct) :
    (m.withData x y).afterAccess P a = (m.afterAccess P a).withData x y := by cases a <;> rfl

/-- An accepted command clears `rx`. -/
theorem Mdioc.withData_present (m : Mdioc) (x y : BitVec 16) (a : MdioAct) :
    ∃ rx, (m.withData x y).present a = (m.present a).withData rx y := by
  cases a with
  | request r =>
    cases hp : m.pinFault with
    | true => exact ⟨x, by simp [Mdioc.withData, Mdioc.present, hp, Mdioc.reject]⟩
    | false => exact ⟨0#16, by simp [Mdioc.withData, Mdioc.present, hp, Mdioc.accept_eq]⟩
  | _ => exact ⟨x, rfl⟩

/-- A sample of another level leaves another `rx`. -/
theorem Mdioc.withData_sample (m : Mdioc) (x y : BitVec 16) (level level' : Bool) :
    ∃ rx, (m.withData x y).sample level' = (m.sample level).withData rx y :=
  ⟨((m.withData x y).sample level').rx, by rw [Mdioc.sample_eq, m.sample_eq]; rfl⟩

/-- What is received is what a read completes with. -/
theorem Mdioc.withData_complete (m : Mdioc) (x y : BitVec 16) :
    ∃ rdata, (m.withData x y).complete = m.complete.withData x rdata := ⟨_, rfl⟩

/-- The level of the line, and what `rx` and `rdata` hold, reach nothing but `rx` and `rdata`. -/
theorem Mdioc.tick_withData (P : Params) {d d' : MdioDraw} (hrst : d'.rst = d.rst) (hpin : d'.pinErr = d.pinErr)
    (a : MdioAct) (m : Mdioc) (x y : BitVec 16) :
    ∃ rx rdata, (m.withData x y).tick P d' a = (m.tick P d a).withData rx rdata := by
  cases hr : d.rst with
  | true =>
    rw [Mdioc.tick_reset P a _ (hrst.trans hr), m.tick_reset P a hr]
    exact ⟨0#16, 0#16, rfl⟩
  | false =>
    have hr' := hrst.trans hr
    by_cases hm : m.mstate = .idle
    · obtain ⟨rx, h⟩ := (m.hostStore P a).withData_present x y a
      rw [Mdioc.tick_idle P a (m := m.withData x y) hr' hm, Mdioc.tick_idle P a hr hm, Mdioc.withData_hostStore, h]
      exact ⟨rx, y, rfl⟩
    · cases hp : P.pinFallible && d.pinErr with
      | true =>
        rw [Mdioc.tick_pinAbort_afterAccess a hr hm hp,
          Mdioc.tick_pinAbort_afterAccess (m := m.withData x y) a hr' hm (hpin ▸ hp), Mdioc.withData_afterAccess]
        exact ⟨x, y, rfl⟩
      | false =>
        have hq' : d'.quiet P := ⟨hr', hpin ▸ hp⟩
        obtain ⟨sampled, hsample⟩ := (m.afterAccess P a).withData_sample x y d.line d'.line
        obtain ⟨hk, h⟩ | ⟨hs, hend, h⟩ | ⟨hs, hend, hc, h⟩ | ⟨hs, hend, hc, h⟩ := Mdioc.tick_busy_cases a ⟨hr, hp⟩ hm
        · rw [h, Mdioc.tick_inside (m := m.withData x y) a hq' hm hk, Mdioc.withData_afterAccess]
          exact ⟨x, y, rfl⟩
        · rw [h, Mdioc.tick_low_end (m := m.withData x y) a hq' hs hend, Mdioc.withData_afterAccess]
          exact ⟨x, y, rfl⟩
        · obtain ⟨rdata, hcomplete⟩ := ((m.afterAccess P a).sample d.line).withData_complete sampled y
          rw [h, Mdioc.tick_high_complete (m := m.withData x y) a hq' hs hend hc, Mdioc.withData_afterAccess, hsample,
            hcomplete]
          exact ⟨sampled, rdata, rfl⟩
        · rw [h, Mdioc.tick_high_next (m := m.withData x y) a hq' hs hend hc, Mdioc.withData_afterAccess, hsample]
          exact ⟨sampled, y, rfl⟩

/-- Other levels of the line, tick by tick, change nothing but `rx` and `rdata`. -/
theorem Mdioc.run_withData (P : Params) (ins : List (MdioDraw × MdioAct)) (levels : List Bool) (m : Mdioc)
    (hlen : ins.length = levels.length) (x y : BitVec 16) :
    ∃ rx rdata, Mdioc.run P ((ins.zip levels).map fun e => ({ e.1.1 with line := e.2 }, e.1.2)) (m.withData x y) =
      (Mdioc.run P ins m).withData rx rdata := by
  induction ins generalizing levels m x y with
  | nil => exact ⟨x, y, rfl⟩
  | cons i ins ih =>
    cases levels with
    | nil => cases hlen
    | cons level levels =>
      obtain ⟨x', y', htick⟩ := Mdioc.tick_withData P (d := i.1) (d' := { i.1 with line := level }) rfl rfl i.2 m x y
      rw [List.zip_cons_cons, List.map_cons, Mdioc.run_cons, htick]
      exact ih levels (m.tick P i.1 i.2) (Nat.succ.inj hlen) x' y'

/-- Settles O27: by induction on the run, from equal data. -/
theorem lineLevelReachesOnlyReadData : Obligations.LineLevelReachesOnlyReadData :=
  fun P ins levels m hlen => m.run_withData P ins levels hlen m.rx m.rdata

/-! ## The timing of a transaction (R113) -/

/-- The two phases of a cell, in ticks since the cell began. -/
theorem low_phase_iff {n h : Nat} (hpos : 0 < h) : n / h % 2 = 0 ↔ n % (2 * h) < h := by
  rw [← Nat.mod_mul_right_div_self, Nat.mul_comm h 2, Nat.div_eq_zero_iff_lt hpos]

/-- The tick that ends cell 63 completes the transaction. -/
theorem Mdioc.Running.tick_complete {P : Params} {d : MdioDraw} {r : Request} {h n : Nat} {m : Mdioc} (a : MdioAct)
    (hm : m.Running r h n) (hq : d.quiet P) (hn : n + 1 = 128 * h) :
    m.tick P d a = ((m.afterAccess P a).sample d.line).complete ∧ m.mdc = true := by
  obtain ⟨hdiv, hmod⟩ : n / h = 127 ∧ n % h = h - 1 := (Nat.div_mod_unique (by omega)).mpr (by omega)
  have hhigh : m.mstate = .high := by rw [hm.phase, hdiv]; rfl
  have hc : m.cell.toNat = 63 := by rw [hm.cell, hdiv]
  exact ⟨Mdioc.tick_high_complete a hq hhigh (by rw [hm.cnt, hm.half]; omega) hc, by rw [hm.mdc, hdiv]; rfl⟩

/-- Settles O17: the position is that of `Mdioc.Running`; the last of 128 h ticks completes. -/
theorem transactionTimingIsExact : Obligations.TransactionTimingIsExact := by
  intro P m r ins hins hpos h n t
  refine ⟨fun hn => ?_, fun hn => ?_⟩
  · have ht : t.Running r h n := m.run_accept_running r hins hn
    refine ⟨BitVec.eq_of_toNat_eq ht.half, ?_, ht.cnt, ?_, ?_⟩
    · rw [ht.cell, Nat.div_div_eq_div_mul, Nat.mul_comm]
    · simp only [ht.phase, low_phase_iff (h := h) hpos]
    · simp only [ht.mdc, ← low_phase_iff (h := h) hpos]
      obtain hlow | hhigh := Nat.mod_two_eq_zero_or_one (n / h)
      · simp [hlow]
      · simp [hhigh]
  · obtain rfl | ⟨pre, i, rfl⟩ := ins.eq_nil_or_concat
    · exact absurd (show 0 = 128 * h from hn) (by omega)
    · have hlen : pre.length + 1 = 128 * h := by simpa [n] using hn
      rw [List.concat_eq_append] at hins
      obtain ⟨hpre, hlast⟩ := List.forall_mem_append.mp hins
      have hrun := m.run_accept_running r hpre (show pre.length < 128 * h by omega)
      obtain ⟨htick, hmdc⟩ := hrun.tick_complete i.2 (hlast i (List.mem_singleton_self i)) hlen
      have ht : t = (Mdioc.run P pre (m.accept r)).tick P i.1 i.2 := by simp [t, Mdioc.run_append]
      rw [ht, htick]
      exact ⟨rfl, rfl, rfl, by simp [hmdc]⟩

/-! ## MDIO_STATUS (10_state.md R26) -/

/-- Settles O28: each field is a part of the concatenation. -/
theorem mdioStatusShowsItsFields : Obligations.MdioStatusShowsItsFields := by
  intro m w
  have hw : w = 0#18 ++ m.cellView ++ 0#1 ++ BitVec.ofBool m.mdioO ++ BitVec.ofBool m.mdc ++ BitVec.ofBool m.roleBit ++
      BitVec.ofBool m.pinFault ++ BitVec.ofBool m.cmdErr ++ BitVec.ofBool m.done ++ BitVec.ofBool m.busy := rfl
  refine ⟨?_, ?_, ?_, ?_, ?_, ?_, ?_, ?_, ?_, ?_⟩
  · simp only [hw, BitVec.getLsbD_append]
    simp [Mdioc.busy, bne, beq_eq_decide]
  · simp only [hw, BitVec.getLsbD_append]
    simp
  · simp only [hw, BitVec.getLsbD_append]
    simp
  · simp only [hw, BitVec.getLsbD_append]
    simp
  · simp only [hw, BitVec.getLsbD_append]
    simp [Mdioc.roleBit, beq_eq_decide]
  · simp only [hw, BitVec.getLsbD_append]
    simp
  · simp only [hw, BitVec.getLsbD_append]
    simp
  · simp only [hw, BitVec.getLsbD_append]
    simp
  · rw [hw]
    iterate 8 rw [BitVec.extractLsb'_append_eq_of_le (by decide)]
    rw [BitVec.extractLsb'_append_eq_of_add_le (by decide), BitVec.extractLsb'_eq_self, Mdioc.cellView]
    simp
  · rw [hw]
    iterate 9 rw [BitVec.extractLsb'_append_eq_of_le (by decide)]
    rw [BitVec.extractLsb'_eq_self]

/-! ## Every tick keeps the invariant (10_state.md R22, R28; 41_mdio_transactions.md R103, R104) -/

@[simp] theorem Mdioc.sample_mstate (m : Mdioc) (b : Bool) : (m.sample b).mstate = m.mstate := by rw [Mdioc.sample_eq]

section
variable {P : Params} {m : Mdioc}

/-- What holds of an IDLE block. -/
theorem Mdioc.Inv.of_idle (hdiv : P.ticksPerUnit ≤ m.div.toNat) (hs : m.mstate = .idle) (hc : m.cell = 0#6)
    (hk : m.cnt = 0#16) (hread : m.op = .rd → m.wdata = 0#16) : m.Inv P :=
  ⟨hdiv, fun _ => ⟨hc, hk⟩, absurd hs, absurd hs, absurd hs, absurd hs, absurd hs, absurd hs, hread⟩

theorem Mdioc.reset_inv (hP : P.wf) : (Mdioc.reset P).Inv P :=
  .of_idle (Mdioc.reset_div_toNat hP).ge rfl rfl rfl fun _ => rfl

/-- CMD_ERR has no part in the invariant. -/
theorem Mdioc.Inv.reject (h : m.Inv P) : m.reject.Inv P :=
  ⟨h.divLegal, h.idleClear, h.busyHalf, h.busyCnt, h.busyMdc, h.busyRole, h.busyLevel, h.busyNoFault, h.readNoPayload⟩

/-- The host stores a legal MDIO_DIV, or a flag. -/
theorem Mdioc.Inv.hostStore (h : m.Inv P) (hP : P.wf) (a : MdioAct) : (m.hostStore P a).Inv P := by
  have hdiv : P.ticksPerUnit ≤ (m.hostStore P a).div.toNat := by
    obtain ⟨v, -, hs⟩ | ⟨v, -, hs⟩ | ⟨-, -, hs⟩ := m.hostStore_cases P a
    · rw [hs, Mdioc.writeDiv_div_toNat hP]
      exact le_max_right _ _
    · rw [hs]; exact h.divLegal
    · rw [hs]; exact h.divLegal
  rw [Mdioc.hostStore_eq]
  exact ⟨hdiv, h.idleClear, h.busyHalf, h.busyCnt, h.busyMdc, h.busyRole, h.busyLevel, h.busyNoFault, h.readNoPayload⟩

theorem Mdioc.Inv.afterAccess (h : m.Inv P) (hP : P.wf) (a : MdioAct) : (m.afterAccess P a).Inv P := by
  rw [Mdioc.afterAccess]
  split
  · exact (h.hostStore hP a).reject
  · exact h.hostStore hP a

/-- An accepted command enters cell 0 with a legal half-cell length (R101). -/
theorem Mdioc.Inv.accept (h : m.Inv P) (hP : P.wf) (hp : m.pinFault = false) (r : Request) : (m.accept r).Inv P := by
  obtain ⟨hpos, -, -⟩ := hP
  have hdiv := h.divLegal
  have hrun := Mdioc.Running.accept m r
  exact
    { divLegal := hdiv
      idleClear := nofun
      busyHalf := fun _ => hdiv
      busyCnt := fun _ => show 0 < m.div.toNat by omega
      busyMdc := fun _ => iff_of_false nofun nofun
      busyRole := fun _ => hrun.role
      busyLevel := fun _ => hrun.level
      busyNoFault := fun _ => hp
      readNoPayload := fun hop => by rw [Mdioc.accept_eq] at hop ⊢; simp [show r.op = .rd from hop] }

theorem Mdioc.Inv.present (h : m.Inv P) (hP : P.wf) (a : MdioAct) : (m.present a).Inv P := by
  cases a with
  | request r =>
    cases hp : m.pinFault with
    | true => rw [Mdioc.present_rejected rfl (.inl hp)]; exact h.reject
    | false => simpa [Mdioc.present, hp] using h.accept hP hp r
  | reserved => exact h.reject
  | _ => exact h

theorem Mdioc.Inv.pinAbort (h : m.Inv P) : m.pinAbort.Inv P := .of_idle h.divLegal rfl rfl rfl h.readNoPayload

theorem Mdioc.Inv.complete (h : m.Inv P) : m.complete.Inv P := .of_idle h.divLegal rfl rfl rfl h.readNoPayload

theorem Mdioc.Inv.sample (h : m.Inv P) (b : Bool) : (m.sample b).Inv P := by
  rw [Mdioc.sample_eq]
  exact ⟨h.divLegal, h.idleClear, h.busyHalf, h.busyCnt, h.busyMdc, h.busyRole, h.busyLevel, h.busyNoFault,
    h.readNoPayload⟩

theorem Mdioc.Inv.enterCell (h : m.Inv P) (hm : m.mstate ≠ .idle) (c : BitVec 6) : (m.enterCell c).Inv P where
  divLegal := h.divLegal
  idleClear := nofun
  busyHalf _ := h.busyHalf hm
  busyCnt _ := Nat.zero_lt_of_lt (h.busyCnt hm)
  busyMdc _ := iff_of_false nofun nofun
  busyRole _ := rfl
  busyLevel _ hout := (m.enterCell_mdioO c).trans (if_pos hout)
  busyNoFault _ := h.busyNoFault hm
  readNoPayload := h.readNoPayload

/-- The tick counts inside a phase. -/
theorem Mdioc.Inv.count (h : m.Inv P) (hm : m.mstate ≠ .idle) (hk : m.cnt.toNat + 1 < m.half.toNat) :
    ({ m with cnt := m.cnt + 1#16 } : Mdioc).Inv P where
  divLegal := h.divLegal
  idleClear hs := absurd hs hm
  busyHalf := h.busyHalf
  busyCnt _ := (Mdioc.cnt_succ_toNat hk).trans_lt hk
  busyMdc := h.busyMdc
  busyRole := h.busyRole
  busyLevel := h.busyLevel
  busyNoFault := h.busyNoFault
  readNoPayload := h.readNoPayload

/-- The last LOW tick raises MDC. -/
theorem Mdioc.Inv.raise (h : m.Inv P) (hm : m.mstate ≠ .idle) :
    ({ m with mstate := .high, cnt := 0#16, mdc := true } : Mdioc).Inv P where
  divLegal := h.divLegal
  idleClear := nofun
  busyHalf _ := h.busyHalf hm
  busyCnt _ := Nat.zero_lt_of_lt (h.busyCnt hm)
  busyMdc _ := iff_of_true rfl rfl
  busyRole _ := h.busyRole hm
  busyLevel _ := h.busyLevel hm
  busyNoFault _ := h.busyNoFault hm
  readNoPayload := h.readNoPayload

theorem Mdioc.Inv.tick (h : m.Inv P) (hP : P.wf) (d : MdioDraw) (a : MdioAct) : (m.tick P d a).Inv P := by
  obtain ⟨-, ht⟩ | ⟨-, -, ht⟩ | ⟨hr, hm, hp, -⟩ | ⟨hq, hm, -⟩ := m.tick_cases P d a
  · rw [ht]; exact Mdioc.reset_inv hP
  · rw [ht]; exact (h.hostStore hP a).present hP a
  · rw [Mdioc.tick_pinAbort_afterAccess a hr hm hp]; exact (h.afterAccess hP a).pinAbort
  · have hacc := h.afterAccess hP a
    have hbusy : (m.afterAccess P a).mstate ≠ .idle := by rwa [Mdioc.afterAccess_mstate]
    obtain ⟨hk, ht⟩ | ⟨-, -, ht⟩ | ⟨-, -, -, ht⟩ | ⟨-, -, -, ht⟩ := Mdioc.tick_busy_cases a hq hm
    · rw [ht, ← m.afterAccess_cnt P a]
      exact hacc.count hbusy (by simpa using hk)
    · rw [ht]; exact hacc.raise hbusy
    · rw [ht]; exact (hacc.sample d.line).complete
    · rw [ht]; exact (hacc.sample d.line).enterCell (by rwa [Mdioc.sample_mstate]) _

end

end Sys2Proof.Machine

/-! PROOFS. The whole machine: every step keeps the invariant (O55, O56), the two blocks do not interfere (O54), where a
step stops (O52), and what the host's accesses do (O47 to O51, O60). -/

namespace Sys2Proof.Machine

/-! ## The machine's invariant -/

/-- Settles O56: each block's reset state meets its invariant, and no variable is stored. -/
theorem resetMeetsInvariant : Obligations.ResetMeetsInvariant :=
  ⟨Mdioc.reset_inv params_wf, Clkseq.reset_inv Config.params, trivial⟩

/-- Settles O55: a step ticks one block, and a variable is stored in its place. -/
theorem stepKeepsInvariant : Obligations.StepKeepsInvariant := by
  intro s t hinv hstep
  obtain ⟨s', hm, hc, -, hvars, ht⟩ := step_cases hstep
  have hmdioc : s'.mdioc.Inv Config.params := hm ▸ hinv.mdioc
  have hclkseq : s'.clkseq.Inv Config.params := hc ▸ hinv.clkseq
  have hsorted : varsSorted s'.host.vars := by
    obtain h | ⟨k, v, h⟩ := hvars
    · rw [h]; exact hinv.vars
    · rw [h]; exact setVar_sorted k v hinv.vars
  obtain ⟨-, a, rfl⟩ | ⟨-, a, rfl⟩ := ht
  · exact ⟨hmdioc.tick params_wf _ a, hclkseq, hsorted⟩
  · exact ⟨hmdioc, hclkseq.tick _ a, hsorted⟩

/-! ## The two blocks (00_scope.md R6, R8) -/

theorem step_of_fetch_mdioc {s s' : State} {a : MdioAct} (h : fetch s = .mdioc a s') :
    step s = .next (tickMdioc a s') := by
  simp [step, h]

theorem step_of_fetch_clkseq {s s' : State} {a : SeqAct} (h : fetch s = .clkseq a s') :
    step s = .next (tickClkseq a s') := by
  simp [step, h]

theorem step_of_fetch_command {s s' : State} {i : Instr} (h : fetch s = .command i s') : step s = exec i s' := by
  simp [step, h]

/-- Settles O54: a step is a tick of the block whose clock is next; each tick reads and writes its own block's part. -/
theorem blocksDoNotInterfere : Obligations.BlocksDoNotInterfere := by
  refine ⟨fun s t hstep => ?_, fun s hnone => ?_, fun s a b => rfl⟩
  · obtain ⟨s', hm, hc, he, -, ht⟩ := step_cases hstep
    obtain ⟨hclock, a, rfl⟩ | ⟨hclock, a, rfl⟩ := ht
    · refine ⟨fun _ => ⟨⟨a, ?_⟩, ?_, ?_⟩, fun h => absurd (hclock.symm.trans h) nofun⟩
      · rw [tickMdioc_mdioc, hm, he, Env.popClock_mdioDraw]
      · rw [tickMdioc_env, he]
      · rw [tickMdioc_clkseq, hc]
    · refine ⟨fun h => absurd (hclock.symm.trans h) nofun, fun _ => ⟨⟨a, ?_⟩, ?_, ?_⟩⟩
      · rw [tickClkseq_clkseq, hc, he, Env.popClock_seqDraw]
      · rw [tickClkseq_env, he]
      · rw [tickClkseq_mdioc, hm]
  · have hfetch := fetch_noAccess hnone
    exact ⟨fun hclock => step_of_fetch_mdioc (by rw [hfetch, hclock]; rfl),
      fun hclock => step_of_fetch_clkseq (by rw [hfetch, hclock]; rfl)⟩

/-! ## Where a step stops (60_exceptions.md R180) -/

/-- A tick of one block goes on, with or without an instruction. -/
theorem goesOn_of_ticks {s s' : State} {blk : Block} (h : ticks blk s' (fetch s)) : goesOn (step s) := by
  have hexec (i : Instr) (hi : fetch s = .command i s') : goesOn (step s) := by
    rw [step_of_fetch_command hi]
    obtain ⟨a, -, he⟩ | ⟨a, -, he⟩ := exec_cases i s' <;> exact ⟨_, he⟩
  cases blk with
  | mdioc =>
    obtain ⟨a, ha⟩ | ⟨i, hi, -⟩ := h
    · exact ⟨_, step_of_fetch_mdioc ha⟩
    · exact hexec i hi
  | clkseq =>
    obtain ⟨a, ha⟩ | ⟨i, hi, -⟩ := h
    · exact ⟨_, step_of_fetch_clkseq ha⟩
    · exact hexec i hi

/-- The host's operation that is made in the next step. -/
theorem fetch_performs {s : State} {op : HostOp} {rest : List HostOp} {blk : Block} {off : Nat}
    (htodo : s.host.todo = op :: rest) (hroute : route Config.params (opTarget op) (opWidth op) = .reg blk off)
    (hclock : s.env.nextClock = blk) : fetch s = perform op rest blk off { s with env := s.env.popClock } := by
  simp [fetch, htodo, hroute, hclock]

/-- An operation on an admitted register ticks its block, unless it is a WAIT on no field. -/
theorem perform_ticks (op : HostOp) (rest : List HostOp) (blk : Block) (off : Nat) (s : State)
    (hfield : ¬ ∃ t hi lo v, op = .wait t hi lo v ∧ (hi < lo ∨ 32 ≤ hi)) :
    ∃ s', ticks blk s' (perform op rest blk off s) := by
  cases op with
  | wr t width v => exact ⟨_, writeAction_ticks blk off v _⟩
  | rd dst t width => exact ⟨_, idleTick_ticks blk _⟩
  | wait t hi lo v =>
    have hin : ¬ (hi < lo ∨ 32 ≤ hi) := fun h => hfield ⟨t, hi, lo, v, rfl, h⟩
    rw [perform, if_neg hin]
    split
    · exact ⟨_, idleTick_ticks blk _⟩
    · exact ⟨_, idleTick_ticks blk _⟩

/-- Settles O52: an access that is not made in this step, or is made to a register, leaves a tick of one block. -/
theorem stepStopsOnlyOnTheHostsAccess : Obligations.StepStopsOnlyOnTheHostsAccess := by
  intro s hstop
  have hidle (h : s.host.todo = [] ∨ ∃ op rest blk off, s.host.todo = op :: rest ∧
      route Config.params (opTarget op) (opWidth op) = .reg blk off ∧ blk ≠ s.env.nextClock) : False :=
    hstop (goesOn_of_ticks (fetch_noAccess h ▸ idleTick_ticks _ _))
  cases htodo : s.host.todo with
  | nil => exact (hidle (.inl htodo)).elim
  | cons op rest =>
    refine ⟨op, rest, rfl, ?_⟩
    by_contra hnone
    obtain ⟨hreg, hfield⟩ := not_or.mp hnone
    simp only [not_forall, not_not] at hreg
    obtain ⟨blk, off, hroute⟩ := hreg
    by_cases hclock : s.env.nextClock = blk
    · obtain ⟨s', h⟩ := perform_ticks op rest blk off { s with env := s.env.popClock } hfield
      exact hstop (goesOn_of_ticks (fetch_performs htodo hroute hclock ▸ h))
    · exact hidle (.inr ⟨op, rest, blk, off, htodo, hroute, Ne.symm hclock⟩)

/-! ## The address map and unmapped offsets (20_memory.md R61, R67) -/

/-- Settles O48: the windows are apart, so an address in one of them is an offset of its block. -/
theorem addressesNameTheSameRegisters : Obligations.AddressesNameTheSameRegisters := by
  intro P width off addr hP
  refine ⟨route_mem_mdioc P width, route_mem_clkseq hP width, fun hout => ?_⟩
  have hm : ¬ (P.mdiocBase ≤ addr ∧ addr < P.mdiocBase + 0x100) := fun h =>
    (hout (addr - P.mdiocBase) (by omega)).1 (by omega)
  have hc : ¬ (P.clkseqBase ≤ addr ∧ addr < P.clkseqBase + 0x100) := fun h =>
    (hout (addr - P.clkseqBase) (by omega)).2 (by omega)
  rw [route, if_neg hm, if_neg hc]

theorem mdioRegAt_unmapped {off : Nat} (h : 0x0C < off) : mdioRegAt off = none := by
  simp (disch := omega) only [mdioRegAt, if_neg]

theorem clkRegAt_unmapped {off : Nat} (h4 : off % 4 = 0) (h : 0x60 < off) : clkRegAt off = none := by
  have hclk : clkAt ((off - 0x48) / 4) = none := by simp (disch := omega) only [clkAt, if_neg]
  simp (disch := omega) only [clkRegAt, if_neg, if_pos, hclk, Option.map_none]

theorem admitted_word {off : Nat} (h4 : off % 4 = 0) (hoff : off < 0x100) : admitted 32 off = true := by
  simp [admitted, h4, hoff]

/-- Settles O47: no register stands there, so nothing is read and nothing is presented. -/
theorem unmappedOffsetsReadZeroIgnoreWrites : Obligations.UnmappedOffsetsReadZeroIgnoreWrites := by
  intro s off v rest h4 hoff
  have ha := admitted_word h4 hoff
  refine ⟨fun hlo => ⟨?_, fun hnext => step_of_fetch_mdioc ?_⟩, fun hlo => ⟨?_, fun hnext => step_of_fetch_clkseq ?_⟩⟩
  · rw [regRead, mdioRegAt_unmapped hlo]
  · rw [fetch_writesNext hnext ha, writeAction, mdioWriteAction, mdioRegAt_unmapped hlo]
  · rw [regRead, clkRegAt_unmapped h4 hlo]
  · rw [fetch_writesNext hnext ha, writeAction, clkWriteAction, clkRegAt_unmapped h4 hlo]

/-! ## The host's accesses, one by one (30_encoding.md R94) -/

/-- Settles O49: the write to a command register is sorted by its decoding. -/
theorem stepRunsDecodedInstruction : Obligations.StepRunsDecodedInstruction := by
  intro s w i rest
  have hm : mdioRegAt 0x00 = some .cmd := rfl
  have hc : clkRegAt 0x00 = some .ctrl := rfl
  refine ⟨fun hnext hd => step_of_fetch_command ?_, fun hnext hd => step_of_fetch_command ?_⟩
  · rw [fetch_writesNext hnext rfl]
    simp [writeAction, mdioWriteAction, hm, hd]
  · rw [fetch_writesNext hnext rfl]
    simp [writeAction, clkWriteAction, hc, hd]

/-- A step whose access has no effect on its block is that block's tick without it. -/
theorem step_of_fetch_idleTick {s s' : State} {blk : Block} (h : fetch s = idleTick blk s') :
    ∃ t, step s = .next t ∧ t.host = s'.host ∧
      (blk = .mdioc → t.mdioc = s'.mdioc.tick Config.params s'.env.mdioDraw .none ∧ t.clkseq = s'.clkseq) ∧
      (blk = .clkseq → t.clkseq = s'.clkseq.tick Config.params s'.env.seqDraw .none ∧ t.mdioc = s'.mdioc) := by
  cases blk with
  | mdioc => exact ⟨_, step_of_fetch_mdioc h, rfl, fun _ => ⟨rfl, rfl⟩, nofun⟩
  | clkseq => exact ⟨_, step_of_fetch_clkseq h, rfl, nofun, fun _ => ⟨rfl, rfl⟩⟩

/-- Settles O50: the step is the block's tick without an access, from the state in which the variable is stored. -/
theorem hostReadHasNoSideEffect : Obligations.HostReadHasNoSideEffect := by
  intro s blk off dst rest htodo hclock h4 hoff
  have hfetch := fetch_performs htodo (if_pos (admitted_word h4 hoff)) hclock
  obtain ⟨t, hstep, hhost, hm, hc⟩ := step_of_fetch_idleTick hfetch
  exact ⟨t, hstep, by rw [hhost], by rw [hhost]; exact getVar_setVar_same dst _ _,
    fun j hj => by rw [hhost]; exact getVar_setVar_other _ _ hj, hm, hc⟩

/-- Settles O51: either way the step is the block's tick without an access. -/
theorem waitRepeatsUntilFieldHolds : Obligations.WaitRepeatsUntilFieldHolds := by
  intro s blk off hi lo v rest htodo hclock h4 hoff hlo hhi
  have hfetch := fetch_performs htodo (if_pos (admitted_word h4 hoff)) hclock
  have hin : ¬ (hi < lo ∨ 32 ≤ hi) := by omega
  have hfield : (regRead s blk off).toNat / 2 ^ lo % 2 ^ (hi + 1 - lo) = fieldOf (regRead s blk off) hi lo := by
    rw [fieldOf, Nat.shiftRight_eq_div_pow]
  rw [perform, if_neg hin] at hfetch
  rw [hfield]
  by_cases hv : fieldOf (regRead s blk off) hi lo = v
  · obtain ⟨t, hstep, hhost, hm, hc⟩ := step_of_fetch_idleTick (hfetch.trans (if_pos hv))
    exact ⟨t, hstep, by rw [hhost, if_pos hv], by rw [hhost], hm, hc⟩
  · obtain ⟨t, hstep, hhost, hm, hc⟩ := step_of_fetch_idleTick (hfetch.trans (if_neg hv))
    exact ⟨t, hstep, by rw [hhost, if_neg hv], by rw [hhost], hm, hc⟩

/-! ## The registers at their offsets (10_state.md R24, R31) -/

@[simp] theorem regRead_mdioc_off (s : State) (r : MdioReg) : regRead s .mdioc (mdioRegOff r) = s.mdioc.hostRead r := by
  simp [regRead]

@[simp] theorem regRead_clkseq_off (s : State) (r : ClkReg) :
    regRead s .clkseq (clkRegOff r) = s.clkseq.hostRead r := by
  simp [regRead]

/-- A 16-bit register as the host reads it: its bits, and 0 above them. -/
theorem halves_setWidth (x : BitVec 16) :
    (x.setWidth 32).extractLsb' 0 16 = x ∧ (x.setWidth 32).extractLsb' 16 16 = 0#16 := by
  constructor
  · rw [BitVec.extractLsb'_setWidth_of_le (by decide), BitVec.extractLsb'_eq_self]
  · refine BitVec.eq_of_getLsbD_eq fun i hi => ?_
    simp [BitVec.getLsbD_setWidth, hi]

/-- The fields of a divider register as the host reads them (R36). -/
theorem fields_pllDivWord (d : PllDiv) :
    (pllDivWord d).extractLsb' 0 8 = d.refdiv ∧ (pllDivWord d).extractLsb' 8 4 = d.pd1 ∧
      (pllDivWord d).extractLsb' 12 4 = d.pd2 ∧ (pllDivWord d).extractLsb' 16 16 = 0#16 := by
  unfold pllDivWord
  refine ⟨?_, ?_, ?_, ?_⟩
  · rw [BitVec.extractLsb'_append_eq_of_add_le (by decide), BitVec.extractLsb'_eq_self]
  · rw [BitVec.extractLsb'_append_eq_of_le (by decide), BitVec.extractLsb'_append_eq_of_add_le (by decide),
      BitVec.extractLsb'_eq_self]
  · iterate 2 rw [BitVec.extractLsb'_append_eq_of_le (by decide)]
    rw [BitVec.extractLsb'_append_eq_of_add_le (by decide), BitVec.extractLsb'_eq_self]
  · iterate 3 rw [BitVec.extractLsb'_append_eq_of_le (by decide)]
    rw [BitVec.extractLsb'_eq_self]

/-- Settles O60: the maps decide each offset, and a read-only register's write presents nothing. -/
theorem registersStandAtTheirOffsets : Obligations.RegistersStandAtTheirOffsets := by
  intro s v rest
  refine ⟨fun e he => ?_, fun e he => ?_, ⟨rfl, rfl⟩, ?_, ?_, ?_, ?_, ?_,
    fun hv hnext => step_writesNext_noCommand hnext hv⟩
  · have hoff : e.1 = mdioRegOff e.2 := by
      revert e
      decide
    rw [hoff, regRead_mdioc_off]
  · have hoff : e.1 = clkRegOff e.2 := by
      revert e
      decide
    rw [hoff, regRead_clkseq_off]
  · simp only [List.forall_mem_cons]
    exact ⟨halves_setWidth _, halves_setWidth _, halves_setWidth _, nofun⟩
  · simp only [List.forall_mem_cons]
    exact ⟨fields_pllDivWord _, fields_pllDivWord _, nofun⟩
  · simp only [List.forall_mem_cons]
    iterate 20 refine ⟨rfl, ?_⟩
    nofun
  · simp only [List.forall_mem_cons]
    iterate 3 refine ⟨fun hnext => step_of_fetch_mdioc (fetch_writesNext hnext rfl), ?_⟩
    nofun
  · simp only [List.forall_mem_cons]
    iterate 24 refine ⟨fun hnext => step_of_fetch_clkseq (fetch_writesNext hnext rfl), ?_⟩
    nofun

end Sys2Proof.Machine

/-! PROOFS. MDIOC beside the reference PHY (41_mdio_transactions.md R119): a write is read back (O57), and a read of an
absent device gives all ones (O58). First what the receiver does at each edge, then which edges it sees, then what a write
and a read come to. -/

namespace Sys2Proof.Machine

/-! ## The receiver, edge by edge (R119; log 13) -/

section
variable (p : RefPhy) (b : Bool)

@[simp] theorem RefPhy.shiftIn_ones : (p.shiftIn b).ones = if b then min (p.ones + 1) 32 else 0 := rfl

/-- An edge adds the bit to the receiver's history, and looks neither at MDC nor at which devices there are. -/
theorem RefPhy.edge_history :
    (p.edge b).ones = (p.shiftIn b).ones ∧ (p.edge b).shift = (p.shiftIn b).shift ∧ (p.edge b).present = p.present ∧
      (p.edge b).lastMdc = p.lastMdc := by
  simp only [RefPhy.edge]
  split_ifs <;> exact ⟨rfl, rfl, rfl, rfl⟩

/-- While no frame is received, a 1 starts none (R119). -/
theorem RefPhy.edge_true_of_pos_zero (hpos : p.pos = 0) :
    p.edge true = { p.shiftIn true with pos := 0, level := true } := by
  simp [RefPhy.edge, hpos]

/-- A 0 after 32 ones starts a frame. -/
theorem RefPhy.edge_start (hones : p.ones = 32) : p.edge false = { p.shiftIn false with pos := 1, level := true } := by
  simp [RefPhy.edge, hones]

end

/-- The bits a request puts on the line, cell by cell: 32 ones, then the frame word (R102). -/
def Request.sentBit (r : Request) (c : Nat) : Bool :=
  if c < 32 then true else (enc r.op r.phy r.reg r.data).getLsbD (63 - c)

/-- MDIOC drives the line in every cell of a write, and in a read's up to REGAD (R103). -/
def Request.drives (r : Request) (c : Nat) : Prop := r.op = .wr ∨ c < 46

/-- `j` bits of the frame of `r` have been received, the last ones seen as far as MDIOC drives them. -/
structure RefPhy.Hearing (r : Request) (j : Nat) (p : RefPhy) : Prop where
  pos : p.pos = j
  ones : p.ones < j
  bits : r.drives (31 + j) → ∀ i < 16, i < j → p.shift.getLsbD i = (enc r.op r.phy r.reg r.data).getLsbD (32 - j + i)
  header : 14 ≤ j → p.op = r.op.bits ∧ p.phyad = r.phy ∧ p.regad = r.reg

/-- The bit seen joins the earlier ones in `shift`. -/
theorem RefPhy.shiftIn_shift (p : RefPhy) (b : Bool) :
    (p.shiftIn b).shift = (p.shift <<< 1) ||| (if b then 1#16 else 0#16) := by
  cases b <;> rfl

/-- The last bits of a word, and the one before them in time order. -/
theorem RefPhy.shiftIn_bits {p : RefPhy} {b : Bool} {w : Word} {j : Nat} (hj : j ≤ 31)
    (hbits : ∀ i < 16, i < j → p.shift.getLsbD i = w.getLsbD (32 - j + i)) (hb : b = w.getLsbD (31 - j)) :
    ∀ i < 16, i < j + 1 → (p.shiftIn b).shift.getLsbD i = w.getLsbD (32 - (j + 1) + i) := by
  intro i hi hij
  rw [RefPhy.shiftIn_shift]
  cases i with
  | zero => rw [getLsbD_shiftIn_zero, hb, show 32 - (j + 1) + 0 = 31 - j by omega]
  | succ k =>
    rw [getLsbD_shiftIn_succ _ _ hi, hbits k (by omega) (by omega), show 32 - (j + 1) + (k + 1) = 32 - j + k by omega]

/-- The header's fields, from the 14 bits up to REGAD. -/
theorem header_of_bits {x : BitVec 16} {r : Request}
    (h : ∀ i < 16, i < 14 → x.getLsbD i = (enc r.op r.phy r.reg r.data).getLsbD (18 + i)) :
    x.extractLsb' 10 2 = r.op.bits ∧ x.extractLsb' 5 5 = r.phy ∧ x.extractLsb' 0 5 = r.reg := by
  have hfield (lo len : Nat) (hlen : lo + len ≤ 14) :
      x.extractLsb' lo len = (enc r.op r.phy r.reg r.data).extractLsb' (18 + lo) len := by
    refine BitVec.eq_of_getLsbD_eq fun i hi => ?_
    rw [BitVec.getLsbD_extractLsb', BitVec.getLsbD_extractLsb', h _ (by omega) (by omega), Nat.add_assoc]
  rw [hfield 10 2 (by decide), hfield 5 5 (by decide), hfield 0 5 (by decide)]
  exact ⟨((Word.top_four_eq_iff _ _ _).mp (Word.top_four_cmdWord ..)).2, Word.phyad_cmdWord .., Word.regad_cmdWord ..⟩

/-- ST is `01` (R81). -/
theorem enc_start (r : Request) :
    (enc r.op r.phy r.reg r.data).getLsbD 31 = false ∧ (enc r.op r.phy r.reg r.data).getLsbD 30 = true := by
  simp only [enc, cmdWord_getLsbD]
  exact ⟨rfl, rfl⟩

theorem RefPhy.Hearing.start {r : Request} {p : RefPhy} (hones : p.ones = 32) : (p.edge false).Hearing r 1 := by
  rw [p.edge_start hones]
  refine ⟨rfl, Nat.zero_lt_one, fun _ i _ hi => ?_, fun h => by omega⟩
  obtain rfl : i = 0 := by omega
  rw [(enc_start r).1]
  exact (congrArg (BitVec.getLsbD · 0) (p.shiftIn_shift false)).trans (getLsbD_shiftIn_zero _ _)

section
variable {r : Request} {j : Nat} {p : RefPhy} {b : Bool}

/-- Inside the frame no edge starts or drops one: fewer than 32 ones have been seen in it, and its second bit is 1. -/
theorem RefPhy.Hearing.edge_eq (h : p.Hearing r j) (hlo : 1 ≤ j) (hhi : j ≤ 31)
    (hb : r.drives (32 + j) → b = r.sentBit (32 + j)) :
    p.edge b =
      if j + 1 = 14 then { (p.shiftIn b).latchHeader with pos := 14, level := true }
      else if j + 1 < 14 then { p.shiftIn b with pos := j + 1, level := true }
      else if j + 1 = 32 ∧ p.stores then
        { p.shiftIn b with pos := 0, level := true, regs := storeReg p.regs p.phyad p.regad (p.shiftIn b).shift }
      else { p.shiftIn b with pos := j + 1, level := p.presented (j + 1) } := by
  have hpos := h.pos
  have hones := h.ones
  have hrestart : ¬ (b = false ∧ p.ones = 32) := by omega
  have hdrop : ¬ (p.pos = 0 ∨ (p.pos = 1 ∧ b = false) ∨ 32 ≤ p.pos) := by
    rintro (h0 | ⟨h1, hfalse⟩ | h32)
    · omega
    · obtain rfl : j = 1 := by omega
      have htrue : b = true := (hb (.inr (by decide))).trans (enc_start r).2
      exact absurd (htrue.symm.trans hfalse) nofun
    · omega
  rw [RefPhy.edge, if_neg hrestart, if_neg hdrop, hpos]

/-- The next bit of the frame, unless it stores. -/
theorem RefPhy.Hearing.edge (h : p.Hearing r j) (hlo : 1 ≤ j) (hhi : j ≤ 31)
    (hb : r.drives (32 + j) → b = r.sentBit (32 + j)) (hstore : j + 1 = 32 → p.stores = false) :
    (p.edge b).Hearing r (j + 1) ∧ (p.edge b).regs = p.regs ∧ (14 ≤ j → (p.edge b).level = p.presented (j + 1)) := by
  have hones : (p.shiftIn b).ones < j + 1 := by
    have hones := h.ones
    rw [RefPhy.shiftIn_ones]
    split <;> omega
  have hbits : r.drives (31 + (j + 1)) → ∀ i < 16, i < j + 1 →
      (p.shiftIn b).shift.getLsbD i = (enc r.op r.phy r.reg r.data).getLsbD (32 - (j + 1) + i) := by
    intro hd
    have hd' : r.drives (32 + j) := by rwa [show 32 + j = 31 + (j + 1) by omega]
    refine RefPhy.shiftIn_bits hhi (h.bits (hd.imp_right fun hlt => by omega)) ?_
    rw [hb hd', Request.sentBit, if_neg (by omega), show 63 - (32 + j) = 31 - j by omega]
  rw [h.edge_eq hlo hhi hb]
  split_ifs with h14 hlt hst
  · have hheader := header_of_bits (fun i hi hi14 => by
      have := hbits (.inr (by omega)) i hi (by omega)
      rwa [h14] at this)
    exact ⟨⟨h14.symm, hones, hbits, fun _ => hheader⟩, rfl, fun h => by omega⟩
  · exact ⟨⟨rfl, hones, hbits, fun h => by omega⟩, rfl, fun h => by omega⟩
  · exact absurd (hst.2.symm.trans (hstore hst.1)) nofun
  · exact ⟨⟨rfl, hones, hbits, fun _ => h.header (by omega)⟩, rfl, fun _ => rfl⟩

/-- The 32nd bit of a write to a present device stores its data (R119). -/
theorem RefPhy.Hearing.edge_store (h : p.Hearing r 31) (hop : r.op = .wr) (hpresent : p.present r.phy = true)
    (hb : b = r.sentBit 63) : (p.edge b).pos = 0 ∧ (p.edge b).regs r.phy r.reg = r.data := by
  obtain ⟨hopbits, hphy, hreg⟩ := h.header (by decide)
  have hstores : p.stores = true := by simp [RefPhy.stores, hopbits, hphy, hpresent, hop, Op.bits]
  have hshift : (p.shiftIn b).shift = r.data := by
    refine BitVec.eq_of_getLsbD_eq fun i hi => ?_
    rw [RefPhy.shiftIn_bits le_rfl (h.bits (.inl hop)) hb i hi (by omega), hop]
    simp [enc, cmdWord_getLsbD, hi]
  rw [h.edge_eq (by decide) le_rfl (fun _ => hb), if_neg (by decide), if_neg (by decide), if_pos ⟨rfl, hstores⟩]
  exact ⟨rfl, by simp [storeReg, hphy, hreg, hshift]⟩

end

/-- What the receiver knows after `e` edges of the transaction of `r`: the ones of the preamble, then the frame. -/
structure RefPhy.Receiving (r : Request) (e : Nat) (p : RefPhy) : Prop where
  preamble : e ≤ 32 → e ≤ p.ones ∧ (1 ≤ e → p.ones ≤ 32)
  frame : 33 ≤ e → p.Hearing r (e - 32)

/-- The next edge, unless it stores. -/
theorem RefPhy.Receiving.edge {r : Request} {e : Nat} {p : RefPhy} {b : Bool} (h : p.Receiving r e) (he : e < 64)
    (hb : r.drives e → b = r.sentBit e) (hstore : e = 63 → p.stores = false) : (p.edge b).Receiving r (e + 1) := by
  obtain hlt | rfl | hgt := Nat.lt_trichotomy e 32
  · refine ⟨fun _ => ?_, fun h33 => by omega⟩
    have htrue : b = true := (hb (.inr (by omega))).trans (if_pos hlt)
    obtain ⟨hlo, -⟩ := h.preamble hlt.le
    obtain ⟨hones, -⟩ := p.edge_history b
    rw [hones, RefPhy.shiftIn_ones, if_pos htrue]
    omega
  · refine ⟨fun h32 => by omega, fun _ => ?_⟩
    have hfalse : b = false := (hb (.inr (by decide))).trans (enc_start r).1
    obtain ⟨hlo, hhi⟩ := h.preamble le_rfl
    rw [hfalse]
    exact .start (by have := hhi (by decide); omega)
  · refine ⟨fun h32 => by omega, fun _ => ?_⟩
    have hcell : 32 + (e - 32) = e := by omega
    have hnext := ((h.frame hgt).edge (b := b) (by omega) (by omega) (by rwa [hcell]) (fun h32 => hstore (by omega))).1
    rwa [show e + 1 - 32 = e - 32 + 1 by omega]

/-! ## The edges the receiver sees (R119; 00_scope.md R6) -/

/-- A predicate on the receiver that each of the 64 edges of `r`'s transaction takes from its number to the next. -/
structure RefPhy.EdgeInv (r : Request) (I : Nat → RefPhy → Prop) : Prop where
  lastMdc : ∀ e p b, I e p → I e { p with lastMdc := b }
  edge : ∀ e p b, e < 64 → (r.drives e → b = r.sentBit e) → I e p → I (e + 1) (p.edge b)

@[simp] theorem RefPhy.observe_lastMdc (p : RefPhy) (m : Mdioc) : (p.observe m).lastMdc = m.mdc := by
  simp only [RefPhy.observe]
  split
  · exact (RefPhy.edge_history _ _).2.2.2
  · rfl

@[simp] theorem RefPhy.observe_present (p : RefPhy) (m : Mdioc) : (p.observe m).present = p.present := by
  simp only [RefPhy.observe]
  split
  · exact (RefPhy.edge_history _ _).2.2.1
  · rfl

theorem RefPhy.observe_noEdge {p : RefPhy} {m : Mdioc} (h : m.mdc = true → p.lastMdc = true) :
    p.observe m = { p with lastMdc := m.mdc } := by
  have hno : ¬ (m.mdc && !p.lastMdc) = true := by simpa using h
  simp only [RefPhy.observe, if_neg hno]

theorem RefPhy.observe_edge {p : RefPhy} {m : Mdioc} (hm : m.mdc = true) (hp : p.lastMdc = false) :
    p.observe m = { p with lastMdc := true }.edge (m.line p.level) := by
  simp [RefPhy.observe, hm, hp]

/-- In a driven cell the line has the bit sent (R102, R103). -/
theorem Mdioc.Running.line_eq {r : Request} {h n : Nat} {m : Mdioc} (hm : m.Running r h n)
    (hd : r.drives (n / h / 2)) (level : Bool) : m.line level = r.sentBit (n / h / 2) := by
  have hout : m.mdioRole = .out := by
    rw [hm.role, m.drive_eq, hm.op, hm.cell, if_neg]
    rintro ⟨hop, hc⟩
    obtain hwr | hlt := hd
    · exact absurd (hop.symm.trans hwr) nofun
    · omega
  rw [Mdioc.line, hout, Request.sentBit, ← hm.frame, ← hm.cell]
  exact hm.level hout

/-- MDIOC stands `n` ticks after acceptance, and the receiver, once it has seen the lines of this tick, has taken every
edge so far. -/
structure CoRunning (r : Request) (h n : Nat) (I : Nat → RefPhy → Prop) (s : Mdioc × RefPhy) : Prop where
  mdioc : s.1.Running r h n
  phy : I ((n / h + 1) / 2) (s.2.observe s.1)

section
variable {P : Params} {r : Request} {h n : Nat} {I : Nat → RefPhy → Prop}

/-- The draw of a tick beside the reference PHY is quiet. -/
def coDraw (s : Mdioc × RefPhy) : MdioDraw := { rst := false, line := (s.2.observe s.1).level, pinErr := false }

theorem coDraw_quiet (P : Params) (s : Mdioc × RefPhy) : (coDraw s).quiet P := ⟨rfl, Bool.and_false _⟩

theorem coTick_eq (P : Params) (a : MdioAct) (s : Mdioc × RefPhy) :
    coTick P a s = (s.1.tick P (coDraw s) a, s.2.observe s.1) := rfl

/-- In its first tick MDC is low. -/
theorem CoRunning.accept (hI : RefPhy.EdgeInv r I) (m : Mdioc) {p : RefPhy} (hp : I 0 p) :
    CoRunning r m.div.toNat 0 I (m.accept r, p) := by
  refine ⟨.accept m r, ?_⟩
  rw [RefPhy.observe_noEdge (show false = true → _ from nofun), Nat.zero_div]
  exact hI.lastMdc 0 p _ hp

/-- One tick on: the receiver sees an edge exactly as the HIGH phase begins. -/
theorem CoRunning.tick (hI : RefPhy.EdgeInv r I) {s : Mdioc × RefPhy} (hs : CoRunning r h n I s) (a : MdioAct)
    (hn : n + 1 < 128 * h) : CoRunning r h (n + 1) I (coTick P a s) := by
  have hrun : (coTick P a s).1.Running r h (n + 1) := hs.mdioc.tick (coDraw_quiet P s) hn
  have hlast : (coTick P a s).2.lastMdc = decide (n / h % 2 = 1) := by
    rw [coTick_eq, RefPhy.observe_lastMdc, hs.mdioc.mdc]
  have hold : I ((n / h + 1) / 2) (coTick P a s).2 := hs.phy
  refine ⟨hrun, ?_⟩
  have hmod : n % h < h := Nat.mod_lt n (by omega)
  have hsame (hsame : n / h % 2 = 1 ∨ (n + 1) / h = n / h) (hcount : ((n + 1) / h + 1) / 2 = (n / h + 1) / 2) :
      I (((n + 1) / h + 1) / 2) ((coTick P a s).2.observe (coTick P a s).1) := by
    rw [RefPhy.observe_noEdge, hcount]
    · exact hI.lastMdc _ _ _ hold
    · rw [hlast, hrun.mdc, decide_eq_true_eq, decide_eq_true_eq]
      omega
  by_cases hk : n % h + 1 < h
  · have hdiv := (div_mod_succ_inside hk).1
    exact hsame (.inr hdiv) (by rw [hdiv])
  · have hdiv := (div_mod_succ_end (n := n) (h := h) (by omega)).1
    obtain hlow | hhigh := Nat.mod_two_eq_zero_or_one (n / h)
    · have hcell : (n + 1) / h / 2 = (n / h + 1) / 2 := by rw [hdiv]
      have hlt : (n + 1) / h < 128 := Nat.div_lt_of_lt_mul (by rwa [Nat.mul_comm])
      have hrise : (coTick P a s).1.mdc = true := by rw [hrun.mdc, decide_eq_true_eq]; omega
      have hwas : (coTick P a s).2.lastMdc = false := by rw [hlast, decide_eq_false_iff_not]; omega
      rw [RefPhy.observe_edge hrise hwas, show ((n + 1) / h + 1) / 2 = (n / h + 1) / 2 + 1 by omega]
      exact hI.edge _ _ _ (by omega) (hcell ▸ fun hd => hrun.line_eq hd _) (hI.lastMdc _ _ _ hold)
    · exact hsame (.inl hhigh) (by omega)

theorem CoRunning.run (hI : RefPhy.EdgeInv r I) {s : Mdioc × RefPhy} (hs : CoRunning r h n I s) {as : List MdioAct}
    (hlen : n + as.length < 128 * h) : CoRunning r h (n + as.length) I (coRun P as s) := by
  induction as generalizing s n with
  | nil => exact hs
  | cons a as ih =>
    rw [List.length_cons] at hlen ⊢
    have hnext := ih (hs.tick hI a (P := P) (by omega)) (by omega)
    rwa [Nat.add_right_comm, Nat.add_assoc] at hnext

/-- After the whole transaction the receiver has seen all 64 edges, and MDC high last. -/
theorem coRun_accept_phy (hI : RefPhy.EdgeInv r I) (m : Mdioc) {p : RefPhy} (hp : I 0 p) {as : List MdioAct}
    (hpos : 1 ≤ m.div.toNat) (hlen : as.length = 128 * m.div.toNat) :
    I 64 (coRun P as (m.accept r, p)).2 ∧ (coRun P as (m.accept r, p)).2.lastMdc = true := by
  obtain rfl | ⟨pre, a, rfl⟩ := as.eq_nil_or_concat
  · rw [List.length_nil] at hlen; omega
  · rw [List.concat_eq_append, List.length_append, List.length_singleton] at hlen
    obtain ⟨hrun, hphy⟩ := (CoRunning.accept hI m hp).run hI (P := P) (as := pre) (by omega)
    have hdiv : (0 + pre.length) / m.div.toNat = 127 :=
      ((Nat.div_mod_unique (c := m.div.toNat - 1) (by omega)).mpr (by omega)).1
    rw [hdiv] at hphy
    rw [List.concat_eq_append, coRun_append, coRun_cons, coRun_nil, coTick_eq]
    exact ⟨hphy, by rw [RefPhy.observe_lastMdc, hrun.mdc, hdiv]; rfl⟩

/-- MDIOC's part of the run: quiet ticks, whose line levels are the receiver's. -/
theorem coRun_inputs (P : Params) (as : List MdioAct) (s : Mdioc × RefPhy) :
    ∃ ins : List (MdioDraw × MdioAct), ins.length = as.length ∧ (∀ i ∈ ins, i.1.quiet P) ∧
      (coRun P as s).1 = Mdioc.run P ins s.1 ∧
      ∀ k x, ins[k]? = some x → x.1 = coDraw (coRun P (as.take k) s) := by
  induction as generalizing s with
  | nil => exact ⟨[], rfl, nofun, rfl, nofun⟩
  | cons a as ih =>
    obtain ⟨ins, hlen, hq, hrun, hlevel⟩ := ih (coTick P a s)
    refine ⟨(coDraw s, a) :: ins, by simp [hlen], List.forall_mem_cons.mpr ⟨coDraw_quiet P s, hq⟩, hrun,
      fun k x hx => ?_⟩
    cases k with
    | zero =>
      obtain rfl : (coDraw s, a) = x := by simpa using hx
      rfl
    | succ k => exact hlevel k x (by simpa using hx)

end

theorem RefPhy.Receiving.of_zero (r : Request) (p : RefPhy) : p.Receiving r 0 :=
  ⟨fun _ => ⟨Nat.zero_le _, nofun⟩, nofun⟩

theorem RefPhy.Receiving.setLastMdc {r : Request} {e : Nat} {p : RefPhy} (h : p.Receiving r e) (b : Bool) :
    RefPhy.Receiving r e { p with lastMdc := b } :=
  ⟨h.preamble, fun he => ⟨(h.frame he).pos, (h.frame he).ones, (h.frame he).bits, (h.frame he).header⟩⟩

/-! ## A write to a present device is stored -/

/-- The receiver after `e` edges of a write to a device that is present. -/
structure RefPhy.ReceivesWrite (r : Request) (e : Nat) (p : RefPhy) : Prop where
  present : p.present r.phy = true
  receiving : e ≤ 63 → p.Receiving r e
  stored : e = 64 → p.pos = 0 ∧ p.regs r.phy r.reg = r.data

theorem RefPhy.receivesWrite_edgeInv {r : Request} (hop : r.op = .wr) : RefPhy.EdgeInv r (RefPhy.ReceivesWrite r) where
  lastMdc _ _ b h := ⟨h.present, fun he => (h.receiving he).setLastMdc b, h.stored⟩
  edge e p b he hb h := by
    have hpresent : (p.edge b).present r.phy = true := by rw [(p.edge_history b).2.2.1]; exact h.present
    have hreceiving := h.receiving (by omega)
    refine ⟨hpresent, fun hlt => hreceiving.edge he hb fun h63 => by omega, fun h64 => ?_⟩
    obtain rfl : e = 63 := by omega
    exact (hreceiving.frame (by decide)).edge_store hop h.present (hb (.inl hop))

/-! ## A read is served -/

/-- The receiver after `e` edges of a read answered with `data`: the register's value, or ones where no device is. -/
structure RefPhy.ServesRead (r : Request) (data : BitVec 16) (e : Nat) (p : RefPhy) : Prop where
  receiving : p.Receiving r e
  served : p.present r.phy = true → p.regs r.phy r.reg = data ∧ (e ≤ 32 → p.pos = 0)
  absent : p.present r.phy = false → data = 0xFFFF#16
  level : 49 ≤ e → p.level = data.getLsbD (64 - e)

section
variable {r : Request} {data : BitVec 16} {e : Nat} {p : RefPhy} {b : Bool}

/-- A read is answered exactly where a device is present, and stores nothing. -/
theorem RefPhy.Hearing.answers_eq {j : Nat} (h : p.Hearing r j) (hj : 14 ≤ j) (hop : r.op = .rd) :
    p.answers = p.present r.phy ∧ p.stores = false := by
  obtain ⟨hopbits, hphy, -⟩ := h.header hj
  constructor
  · simp [RefPhy.answers, hopbits, hop, hphy, Op.bits]
  · simp [RefPhy.stores, hopbits, hop, Op.bits]

/-- No edge of a read changes the register, and outside a frame none begins one early. -/
theorem RefPhy.ServesRead.edge_served (h : p.ServesRead r data e) (hop : r.op = .rd) (he : e < 64)
    (hb : r.drives e → b = r.sentBit e) (hpresent : p.present r.phy = true) :
    (p.edge b).regs r.phy r.reg = data ∧ (e + 1 ≤ 32 → (p.edge b).pos = 0) := by
  obtain ⟨hregs, hpos⟩ := h.served hpresent
  obtain hlt | rfl | hgt := Nat.lt_trichotomy e 32
  · have htrue : b = true := (hb (.inr (by omega))).trans (if_pos hlt)
    rw [htrue, p.edge_true_of_pos_zero (hpos hlt.le)]
    exact ⟨hregs, fun _ => rfl⟩
  · have hfalse : b = false := (hb (.inr (by decide))).trans (enc_start r).1
    obtain ⟨hlo, hhi⟩ := h.receiving.preamble le_rfl
    have hones : p.ones = 32 := le_antisymm (hhi (by decide)) hlo
    rw [hfalse, p.edge_start hones]
    exact ⟨hregs, fun h33 => by omega⟩
  · have hhear := h.receiving.frame hgt
    have hkept := (hhear.edge (b := b) (by omega) (by omega) (by rwa [show 32 + (e - 32) = e by omega])
      (fun h31 => (hhear.answers_eq (by omega) hop).2)).2.1
    rw [hkept]
    exact ⟨hregs, fun h32 => by omega⟩

/-- From the turnaround on the edges present the data, bit 15 first. -/
theorem RefPhy.ServesRead.edge_level (h : p.ServesRead r data e) (hop : r.op = .rd) (hlo : 48 ≤ e) (hhi : e < 64)
    (hb : r.drives e → b = r.sentBit e) : (p.edge b).level = data.getLsbD (63 - e) := by
  have hhear := h.receiving.frame (by omega)
  obtain ⟨-, hphy, hreg⟩ := hhear.header (by omega)
  obtain ⟨hanswers, hstores⟩ := hhear.answers_eq (by omega) hop
  have hlevel := (hhear.edge (b := b) (by omega) (by omega) (by rwa [show 32 + (e - 32) = e by omega])
    (fun _ => hstores)).2.2 (by omega)
  rw [hlevel, RefPhy.presented, hanswers, hphy, hreg]
  cases hpresent : p.present r.phy with
  | true =>
    rw [if_pos ⟨rfl, by omega⟩, if_neg (by omega), (h.served hpresent).1, show 32 - (e - 32 + 1) = 63 - e by omega]
  | false =>
    have hones : ∀ i < 16, (0xFFFF#16).getLsbD i = true := by decide
    rw [if_neg (by simp), h.absent hpresent, hones _ (by omega)]

theorem RefPhy.servesRead_edgeInv (hop : r.op = .rd) : RefPhy.EdgeInv r (RefPhy.ServesRead r data) where
  lastMdc _ _ b h := ⟨h.receiving.setLastMdc b, h.served, h.absent, h.level⟩
  edge e p b he hb h := by
    have hkept := (p.edge_history b).2.2.1
    refine ⟨h.receiving.edge he hb fun h63 => ?_, fun hpresent => ?_, fun habsent => ?_, fun h49 => ?_⟩
    · exact ((h.receiving.frame (by omega)).answers_eq (by omega) hop).2
    · exact h.edge_served hop he hb (hkept ▸ hpresent)
    · exact h.absent (hkept ▸ habsent)
    · rw [h.edge_level hop (by omega) he hb, show 64 - (e + 1) = 63 - e by omega]

end

/-! ## MDIOC's side of a transaction beside the reference PHY -/

/-- What quiet ticks keep, the run beside the PHY keeps. -/
theorem coRun_of_tick {P : Params} {q : Mdioc → Prop} {as : List MdioAct}
    (hq : ∀ a ∈ as, ∀ (d : MdioDraw) (m : Mdioc), d.quiet P → q m → q (m.tick P d a)) {s : Mdioc × RefPhy}
    (hs : q s.1) : q (coRun P as s).1 := by
  induction as generalizing s with
  | nil => exact hs
  | cons a as ih =>
    obtain ⟨ha, hrest⟩ := List.forall_mem_cons.mp hq
    exact ih hrest (ha (coDraw s) s.1 (coDraw_quiet P s) hs)

theorem Mdioc.tick_quiet_pinFault {P : Params} {d : MdioDraw} (a : MdioAct) {m : Mdioc} (hq : d.quiet P) :
    (m.tick P d a).pinFault = m.pinFault := by
  by_cases hm : m.mstate = .idle
  · rw [Mdioc.tick_idle P a hq.1 hm, Mdioc.present_pinFault, Mdioc.hostStore_pinFault]
  · rw [Mdioc.tick_quiet_advance a hq hm, Mdioc.advance_pinFault, Mdioc.afterAccess_pinFault]

/-- MDIO_DIV is never 0, since MIN_DIV is not (R28). -/
theorem Mdioc.tick_div_pos {P : Params} (hP : P.wf) {d : MdioDraw} (a : MdioAct) {m : Mdioc} (hr : d.rst = false)
    (hpos : 1 ≤ m.div.toNat) : 1 ≤ (m.tick P d a).div.toNat := by
  by_cases ha : ∃ v, a = .div v
  · obtain ⟨v, rfl⟩ := ha
    rw [m.tick_writeDiv P v hr, Mdioc.writeDiv_div_toNat hP]
    exact hP.1.trans (le_max_right _ _)
  · rw [m.tick_div_of_ne P hr fun v hv => ha ⟨v, hv⟩]
    exact hpos

/-- Without a host access CMD_ERR stays (R41). -/
theorem Mdioc.tick_none_cmdErr {P : Params} {d : MdioDraw} {m : Mdioc} (hr : d.rst = false) :
    (m.tick P d .none).cmdErr = m.cmdErr := by
  obtain ⟨-, hcmd, -⟩ := stickyFlagsFollowTheirEvents P d .none m hr
  exact Bool.eq_iff_iff.mpr (hcmd.trans (by simp [MdioAct.isCommand]))

/-- The tick in which a command is accepted, beside the PHY. -/
theorem coTick_accept {P : Params} {m : Mdioc} (p : RefPhy) (r : Request) (hm : m.mstate = .idle)
    (hf : m.pinFault = false) : coTick P (.request r) (m, p) = (m.accept r, p.observe m) := by
  rw [coTick_eq, Mdioc.tick_accept P r rfl hm hf]

/-- With MDC high and already seen so, the receiver sees nothing new. -/
theorem RefPhy.observe_eq_self {p : RefPhy} {m : Mdioc} (hm : m.mdc = true) (hp : p.lastMdc = true) :
    p.observe m = p := by
  rw [RefPhy.observe_noEdge fun _ => hp, hm, ← hp]

/-- Between transactions nothing moves without a host access (R112). -/
theorem coRun_gap {P : Params} {s : Mdioc × RefPhy} (hm : s.1.mstate = .idle) (hmdc : s.1.mdc = true)
    (hlast : s.2.lastMdc = true) (gap : Nat) : coRun P (List.replicate gap .none) s = s := by
  have htick : coTick P .none s = s := by
    rw [coTick_eq, Mdioc.tick_idle P .none rfl hm, RefPhy.observe_eq_self hmdc hlast]
    rfl
  induction gap with
  | zero => rfl
  | succ gap ih => rw [List.replicate_succ, coRun_cons, htick, ih]

section
variable {P : Params} {m : Mdioc} {p : RefPhy} {as : List MdioAct} (hpos : 1 ≤ m.div.toNat)
  (hlen : as.length = 128 * m.div.toNat)
include hpos hlen

/-- An accepted command completes after its 128 half-cells (R113). -/
theorem coRun_accept_done (r : Request) :
    (coRun P as (m.accept r, p)).1.mstate = .idle ∧ (coRun P as (m.accept r, p)).1.done = true ∧
      (coRun P as (m.accept r, p)).1.mdc = true := by
  obtain ⟨ins, hins, hq, hrun, -⟩ := coRun_inputs P as (m.accept r, p)
  rw [hrun]
  obtain ⟨hidle, hdone, -, hmdc⟩ := (transactionTimingIsExact P m r ins hq hpos).2 (hins.trans hlen)
  exact ⟨hidle, hdone, hmdc⟩

/-- A read that the receiver serves with `data` leaves it in MDIO_RDATA (R106). -/
theorem coRun_read_rdata {a r : BitVec 5} {data : BitVec 16} (hp : p.ServesRead (readRequest a r) data 0) :
    (coRun P as (m.accept (readRequest a r), p)).1.rdata = data := by
  obtain ⟨ins, hins, hq, hrun, hlevel⟩ := coRun_inputs P as (m.accept (readRequest a r), p)
  rw [hrun]
  refine BitVec.eq_of_getLsbD_eq fun i hi => ?_
  have hend : (2 * (63 - i) + 2) * m.div.toNat ≤ 128 * m.div.toNat := Nat.mul_le_mul_right _ (by omega)
  have hstart : 0 < (2 * (63 - i) + 2) * m.div.toNat := Nat.mul_pos (by omega) hpos
  obtain ⟨x, hx⟩ : ∃ x, ins[(2 * (63 - i) + 2) * m.div.toNat - 1]? = some x :=
    ⟨_, List.getElem?_eq_getElem (by omega)⟩
  have hbit := readReturnsSixteenSamples P m a r ins hq hpos (hins.trans hlen) (63 - i) x (by omega) (by omega) hx
  rw [show 63 - (63 - i) = i by omega] at hbit
  rw [hbit, hlevel _ x hx]
  have hco := (CoRunning.accept (RefPhy.servesRead_edgeInv rfl) m hp).run (RefPhy.servesRead_edgeInv rfl) (P := P)
    (as := as.take ((2 * (63 - i) + 2) * m.div.toNat - 1)) (by rw [List.length_take]; omega)
  have hcount : (0 + (as.take ((2 * (63 - i) + 2) * m.div.toNat - 1)).length) / m.div.toNat = 2 * (63 - i) + 1 := by
    refine ((Nat.div_mod_unique (c := m.div.toNat - 1) (by omega)).mpr ⟨?_, by omega⟩).1
    rw [List.length_take]
    have hmul : (2 * (63 - i) + 2) * m.div.toNat = m.div.toNat * (2 * (63 - i) + 1) + m.div.toNat := by ring
    omega
  have hphy := hco.phy
  rw [hcount] at hphy
  rw [coDraw, hphy.level (by omega), show 64 - (2 * (63 - i) + 1 + 1) / 2 = i by omega]

end

/-- Settles O58: the absent device's level is 1 in every data cell, and without host accesses CMD_ERR is kept. -/
theorem absentDeviceReadsAllOnes : Obligations.AbsentDeviceReadsAllOnes := by
  intro P m p a r gap hP hm hf hpos habsent hgap s
  have hlen : (List.replicate gap MdioAct.none).length = 128 * m.div.toNat := List.length_replicate.trans hgap
  have hs : s = coRun P (List.replicate gap .none) (m.accept (readRequest a r), p.observe m) := by
    rw [← coTick_accept p (readRequest a r) hm hf]
    rfl
  have hserves : (p.observe m).ServesRead (readRequest a r) 0xFFFF#16 0 :=
    ⟨.of_zero _ _, fun h => absurd (habsent.symm.trans ((congrFun (p.observe_present m) a).symm.trans h)) nofun,
      fun _ => rfl, fun h => absurd h (by decide)⟩
  rw [hs]
  obtain ⟨hidle, hdone, -⟩ := coRun_accept_done (P := P) (p := p.observe m) hpos hlen (readRequest a r)
  refine ⟨hidle, hdone, coRun_read_rdata hpos hlen hserves, ?_, ?_⟩
  · refine coRun_of_tick (q := (·.cmdErr = m.cmdErr)) (fun b hb d t hq ht => ?_) rfl
    rw [List.eq_of_mem_replicate hb, Mdioc.tick_none_cmdErr hq.1, ht]
  · exact coRun_of_tick (q := (·.pinFault = false)) (fun b _ d t hq ht => (Mdioc.tick_quiet_pinFault b hq).trans ht) hf

/-- Settles O57: the write is stored, the gap changes nothing, and the read is served with what is stored. -/
theorem roundTripThroughReferencePhy : Obligations.RoundTripThroughReferencePhy := by
  intro P m p a r v during1 during2 gap hP hm hf hpos hpresent hlen1 s1 s2 hlen2 s3
  have hs1 : s1 = coRun P during1 (m.accept (writeRequest a r v), p.observe m) := by
    rw [← coTick_accept p (writeRequest a r v) hm hf]
    rfl
  have hstart : (p.observe m).ReceivesWrite (writeRequest a r v) 0 :=
    ⟨by rw [p.observe_present]; exact hpresent, fun _ => .of_zero _ _, nofun⟩
  obtain ⟨hidle1, hdone1, hmdc1⟩ := coRun_accept_done (P := P) (p := p.observe m) hpos hlen1 (writeRequest a r v)
  obtain ⟨hstores, hlast1⟩ := coRun_accept_phy (P := P) (RefPhy.receivesWrite_edgeInv rfl) m hstart hpos hlen1
  rw [← hs1] at hidle1 hdone1 hmdc1 hstores hlast1
  obtain ⟨hpos0, hregs⟩ := hstores.stored rfl
  have hf1 : s1.1.pinFault = false := by
    rw [hs1]
    exact coRun_of_tick (q := (·.pinFault = false)) (fun b _ d t hq ht => (Mdioc.tick_quiet_pinFault b hq).trans ht) hf
  have hdiv1 : 1 ≤ s1.1.div.toNat := by
    rw [hs1]
    exact coRun_of_tick (q := (1 ≤ ·.div.toNat)) (fun b _ d t hq ht => Mdioc.tick_div_pos hP b hq.1 ht) hpos
  have hs2 : s2 = s1 := coRun_gap hidle1 hmdc1 hlast1 gap
  rw [hs2] at hlen2
  have hs3 : s3 = coRun P during2 (s1.1.accept (readRequest a r), s1.2) := by
    have haccept := coTick_accept (P := P) s1.2 (readRequest a r) hidle1 hf1
    rw [RefPhy.observe_eq_self hmdc1 hlast1] at haccept
    rw [← haccept, ← hs2]
    rfl
  have hserves : s1.2.ServesRead (readRequest a r) v 0 :=
    ⟨.of_zero _ _, fun _ => ⟨hregs, fun _ => hpos0⟩, fun habsent => absurd (hstores.present.symm.trans habsent) nofun,
      fun h => absurd h (by decide)⟩
  obtain ⟨hidle3, hdone3, -⟩ := coRun_accept_done (P := P) (p := s1.2) hdiv1 hlen2 (readRequest a r)
  rw [hs3]
  exact ⟨hidle1, hdone1, hidle3, hdone3, coRun_read_rdata hdiv1 hlen2 hserves⟩

end Sys2Proof.Machine
